-- ==== Sys2Proof/Word.lean ====
section
/-!
DEFINITION. The bit widths the spec names: the command word (R60), a line number (R6, `POS_BITS`), the eight-line bus
(R6, `N_LINES`; R21, R22).
-/

namespace Sys2Proof

/-- A command word, `cmd[15:0]` (R60). -/
abbrev Word := BitVec 16

/-- A ring position or line number, 0 to 7 (R26, R45). -/
abbrev Line := BitVec 3

/-- Eight bits, one per LED line; bit `k` is line `k` (R21, R22, R23). -/
abbrev Ring := BitVec 8

end Sys2Proof
end

