-- ==== Sys2Proof/Syntax.lean ====
section
/-!
DEFINITION. The twelve operations (R64), one constructor per row of the opcode table.
-/

namespace Sys2Proof

/-- The operations of R64. The three format I operations carry the ring position `p` of `line_at(position: int)` as the
integer it stands for (R63); the nine format Z operations carry nothing (R62). -/
inductive Instr where
  /-- PERIPH_TAKE, 0x1000 (R125). -/
  | periphTake
  /-- BTN_CFG_IN, 0x2000 (R81). -/
  | btnCfgIn
  /-- BTN_SEL_IRQ, 0x3000 (R94). -/
  | btnSelIrq
  /-- BTN_EDGE_EN, 0x4000 (R95). -/
  | btnEdgeEn
  /-- CELL_INIT, 0x5000 (R96). -/
  | cellInit
  /-- IRQ_UNMASK, 0x6000 (R97). -/
  | irqUnmask
  /-- POLL, 0x7000 (R82). -/
  | poll
  /-- TAKE, 0x8000 (R98). -/
  | take
  /-- LED_CFG_OUT, 0x9000 with the position in `imm8` (R112). -/
  | ledCfgOut (p : Int)
  /-- LED_ASSERT, 0xA000 with the position in `imm8` (R113). -/
  | ledAssert (p : Int)
  /-- LED_DEASSERT, 0xB000 with the position in `imm8` (R114). -/
  | ledDeassert (p : Int)
  /-- DELAY, 0xC000 (R127). -/
  | delay
deriving DecidableEq, Repr

end Sys2Proof
end

