-- ==== Sys2Proof/WellFormed.lean ====
section
/-!
DEFINITION. Which instruction terms have an encoding: the position operand must fit `imm8`, an 8-bit two's-complement
integer (R63). An operand outside -128..127 is an assembler error (R70).
-/

namespace Sys2Proof

/-- `p` is one of the 256 values `sext_8(imm8)` can take (R63). -/
def positionFits (p : Int) : Bool := decide (-128 ≤ p) && decide (p ≤ 127)

/-- The well-formed instructions: those with a command word. -/
def Instr.wf : Instr → Bool
  | .periphTake => true
  | .btnCfgIn => true
  | .btnSelIrq => true
  | .btnEdgeEn => true
  | .cellInit => true
  | .irqUnmask => true
  | .poll => true
  | .take => true
  | .ledCfgOut p => positionFits p
  | .ledAssert p => positionFits p
  | .ledDeassert p => positionFits p
  | .delay => true

end Sys2Proof
end

