-- ==== Sys2Proof/Decode.lean ====
section
/-!
DEFINITION. The command word's fields (R61), the decoder (R64 to R66), the encoder, and the opcode map as a table of
match and mask rows (R64). The decoder is total on all 65536 words and rejects by name.
-/

namespace Sys2Proof

/-- `cmd[15:12]` (R61). -/
def opcField (w : Word) : BitVec 4 := w.extractLsb' 12 4

/-- `cmd[11:8]`, reserved, must be 0000 (R61). -/
def rsvField (w : Word) : BitVec 4 := w.extractLsb' 8 4

/-- `cmd[7:0]` (R61). -/
def immField (w : Word) : BitVec 8 := w.extractLsb' 0 8

/-- Why a word is illegal: the three cases of R66. -/
inductive Illegal where
  /-- R66 (a): `opc` is 0x0, 0xD, 0xE or 0xF. -/
  | opcode
  /-- R66 (b): `rsv` is not 0000. -/
  | reserved
  /-- R66 (c): a format Z word with `imm8` not 0. -/
  | operand
deriving DecidableEq, Repr

/-- A format Z word (R62): nothing but the opcode may be set. -/
def decodeZ (i : Instr) (w : Word) : Except Illegal Instr :=
  if rsvField w ≠ 0 then .error .reserved
  else if immField w ≠ 0 then .error .operand
  else .ok i

/-- A format I word (R63): the operand is `sext_8(imm8)`. -/
def decodeI (mk : Int → Instr) (w : Word) : Except Illegal Instr :=
  if rsvField w ≠ 0 then .error .reserved
  else .ok (mk (immField w).toInt)

/-- The decoder (R65 steps 2 to 4). It reads no state. -/
def decode (w : Word) : Except Illegal Instr :=
  match opcField w with
  | 0x1#4 => decodeZ .periphTake w
  | 0x2#4 => decodeZ .btnCfgIn w
  | 0x3#4 => decodeZ .btnSelIrq w
  | 0x4#4 => decodeZ .btnEdgeEn w
  | 0x5#4 => decodeZ .cellInit w
  | 0x6#4 => decodeZ .irqUnmask w
  | 0x7#4 => decodeZ .poll w
  | 0x8#4 => decodeZ .take w
  | 0x9#4 => decodeI .ledCfgOut w
  | 0xA#4 => decodeI .ledAssert w
  | 0xB#4 => decodeI .ledDeassert w
  | 0xC#4 => decodeZ .delay w
  | _ => .error .opcode

/-- The opcode of each operation (R64). -/
def Instr.opcode : Instr → BitVec 4
  | .periphTake => 0x1
  | .btnCfgIn => 0x2
  | .btnSelIrq => 0x3
  | .btnEdgeEn => 0x4
  | .cellInit => 0x5
  | .irqUnmask => 0x6
  | .poll => 0x7
  | .take => 0x8
  | .ledCfgOut _ => 0x9
  | .ledAssert _ => 0xA
  | .ledDeassert _ => 0xB
  | .delay => 0xC

/-- The operand bits of each operation: 0 in format Z (R62), the position's low eight bits in format I (R63). -/
def Instr.imm8 : Instr → BitVec 8
  | .periphTake => 0
  | .btnCfgIn => 0
  | .btnSelIrq => 0
  | .btnEdgeEn => 0
  | .cellInit => 0
  | .irqUnmask => 0
  | .poll => 0
  | .take => 0
  | .ledCfgOut p => BitVec.ofInt 8 p
  | .ledAssert p => BitVec.ofInt 8 p
  | .ledDeassert p => BitVec.ofInt 8 p
  | .delay => 0

/-- The command word of an instruction: opcode, 0000, operand (R61). -/
def encode (i : Instr) : Word := (i.opcode ++ (0#4 ++ i.imm8) : BitVec (4 + (4 + 8)))

/-- One row of the opcode map (R64). -/
structure OpcodeRow where
  opc : BitVec 4
  matchBits : Word
  mask : Word
deriving DecidableEq, Repr

/-- The twelve rows of R64, in the table's order. -/
def opcodeMap : List OpcodeRow :=
  [⟨0x1, 0x1000, 0xFFFF⟩, ⟨0x2, 0x2000, 0xFFFF⟩, ⟨0x3, 0x3000, 0xFFFF⟩, ⟨0x4, 0x4000, 0xFFFF⟩,
   ⟨0x5, 0x5000, 0xFFFF⟩, ⟨0x6, 0x6000, 0xFFFF⟩, ⟨0x7, 0x7000, 0xFFFF⟩, ⟨0x8, 0x8000, 0xFFFF⟩,
   ⟨0x9, 0x9000, 0xFF00⟩, ⟨0xA, 0xA000, 0xFF00⟩, ⟨0xB, 0xB000, 0xFF00⟩, ⟨0xC, 0xC000, 0xFFFF⟩]

/-- A word selects a row when `w & mask = match` (R64). -/
def OpcodeRow.selects (r : OpcodeRow) (w : Word) : Bool := (w &&& r.mask) == r.matchBits

/-- The instruction the decoder reads from an opcode-table word of `nbits` bits: the command word is presented in
parallel, bit 0 the least significant (R46), and the bits above `nbits` are 0. An instruction is never longer than one
word (R60). -/
def decodeTableWord (nbits w : Nat) : Option Instr :=
  if nbits ≤ 16 then
    match decode (BitVec.ofNat 16 (w % 2 ^ nbits)) with
    | .ok i => some i
    | .error _ => none
  else none

end Sys2Proof
end

