-- ==== Sys2Proof/Config.lean ====
section
/-!
DEFINITION. What the spec leaves to the implementation: constants with no body, so that nothing can be proved of their
values.
-/

namespace Sys2Proof

/-- The level a read of the floating button line gives at its `n`-th draw: `any`, a fresh draw at each read (R42). Log
entry 5. -/
opaque Config.floatingLevel : Nat → Bool

/-- `TICK_CYCLES`, the length of the busy-wait in processor cycles (R6, R127): open, and no rule reads it. Log entry
15. -/
opaque Config.tickCycles : Nat

end Sys2Proof
end

