-- ==== Sys2Proof/Machine/State.lean ====
section
/-!
DEFINITION. The state of the block, its sequencer and the model's own fields (spec/10_state.md), the reasons a step can
stop, and the state after reset (R186).
-/

namespace Sys2Proof.Machine

/-- The fatal errors of R157. -/
inductive Fatal where
  /-- TAKE or the callback with `cell = none` (R155). -/
  | useBeforeInit
  /-- CELL_INIT with the cell present (R160). -/
  | doubleInit
  /-- PERIPH_TAKE after the first (R160). -/
  | periphTaken
  /-- A command word that matches no row (R156). -/
  | illegalCmd
deriving DecidableEq, Repr

/-- The Direction of the ring: +1 or -1 (R27). -/
inductive Direction where
  | plus
  | minus
deriving DecidableEq, Repr

/-- The parameter `DESIGN`: which button design the sequencer queries (R6, R86). -/
inductive Design where
  | poll
  | edge
deriving DecidableEq, Repr

/-- What the output ports `cmd_done`, `resp_valid` and `resp` show for the step just taken (R31): the outcomes of R73
that leave a state. The fifth, `refuse`, is the step's refusal. -/
inductive Report where
  /-- No word was issued in this step. -/
  | idle
  /-- `done`: the operation took effect, no value. -/
  | done
  /-- `done(b)`: it took effect and returned `resp = b` (POLL and TAKE only). -/
  | doneWith (b : Bool)
  /-- `halt(c)`: the fatal error `c` was raised. -/
  | halt (c : Fatal)
  /-- `ignored`: the block was already halted. -/
  | ignored
deriving DecidableEq, Repr

/-- One agent's turn at a boundary (R10, R52). -/
inductive Turn where
  /-- The consumer issues the word on `cmd[15:0]` (R31). -/
  | cmd (w : Word)
  /-- The sequencer performs its next phase (R136). -/
  | seqStep
  /-- The environment sets the button line (R90). -/
  | lineSet (v : Bool)
  /-- The interrupt agent runs the callback if delivery is enabled (R165). -/
  | callback
  /-- The floating line makes a spurious edge if the detector is armed (R92). -/
  | spurious
  /-- The host applies reset (R185). -/
  | reset
deriving DecidableEq, Repr

/-- The machine's state: R12 to R29, then the model's own fields. -/
@[ext]
structure State where
  /-- The press now on the line has been reported (R12). -/
  handled : Bool
  /-- The Shared Button State: not constructed, or holding the latch `pressed` (R13, R14). -/
  cell : Option Bool
  /-- The line's pending-interrupt flag (R15). -/
  pending : Bool
  /-- The line is selected as an interrupt source (R16). -/
  srcSel : Bool
  /-- Rising-edge triggering is enabled (R17). -/
  edgeEn : Bool
  /-- The button interrupt is unmasked at the controller (R18). -/
  unmask : Bool
  /-- The button line is configured as an input (R19). -/
  inCfg : Bool
  /-- The level of the button line, the environment's (R20). -/
  line : Bool
  /-- The eight output latches (R21). -/
  led : Ring
  /-- The lines configured as outputs (R22). -/
  outCfg : Ring
  /-- The peripherals handle has been acquired (R24). -/
  periphTaken : Bool
  /-- A fatal error has halted the block (R25). -/
  halted : Bool
  /-- The code of the first fatal error, 0 if none (R25, R157). -/
  cause : BitVec 3
  /-- The Ring Position the sequencer last lit (R26). -/
  pos : Line
  /-- The Direction (R27). -/
  dir : Direction
  /-- The response of this tick's query (R28). -/
  fresh : Bool
  /-- The next ring position (R28). -/
  nxt : Line
  /-- The sequencer's next phase (R29). -/
  phase : BitVec 3
  /-- MODEL's own: the parameter `DESIGN`, fixed through a run (R6). Log entry 4. -/
  design : Design
  /-- MODEL's own: how many free values have been drawn (R42). Log entry 5. -/
  draws : Nat
  /-- MODEL's own: what the response ports show for the step just taken (R31, R73). Log entry 7. -/
  report : Report
  /-- MODEL's own: the agents' turns still to come, the head first (R52). Log entry 1. -/
  inputs : List Turn
deriving DecidableEq, Repr

/-- No step of this machine ends in a fault: a fatal error is an entry the spec describes (R158), so it is a next state.
Nobody raises a Fault; that there is none is safe. Log entry 20. -/
inductive Fault where
deriving DecidableEq, Repr

/-- Why a step has no meaning. -/
inductive Refusal where
  /-- Raised by `exec`'s arm of an instruction the model has not reached; there is none. Safe. -/
  | notModelled (mnemonic : String)
  /-- Raised by LED_ASSERT and LED_DEASSERT on a line `k` not configured as an output: the spec gives the write no
  meaning (R115). Safe: no claim passes through it. Log entry 8. -/
  | unconfiguredLine (k : Line)
  /-- Raised by a sequencer step with `phase` 6 or 7, which the spec says is no start state (R29; U21 of
  93_implementation_defined.md). Safe. Log entry 9. -/
  | unreachablePhase
deriving DecidableEq, Repr

/-- The machine right after reset (R186). `line` is the environment's and the spec resets it to nothing (R20): low here,
log entry 3. `design`, `draws`, `report` and `inputs` are the model's own: log entries 4, 5, 7 and 1. -/
def State.reset : State where
  handled := false
  cell := none
  pending := false
  srcSel := false
  edgeEn := false
  unmask := false
  inCfg := false
  line := false
  led := 0
  outCfg := 0
  periphTaken := false
  halted := false
  cause := 0
  pos := 0
  dir := .plus
  fresh := false
  nxt := 0
  phase := 0
  design := .poll
  draws := 0
  report := .idle
  inputs := []

/-- The outcome of a step of this machine. -/
abbrev Result := Host.Outcome State Fault Refusal

end Sys2Proof.Machine
end

