-- ==== Sys2Proof/Machine/Flags.lean ====
section
/-!
DEFINITION. The flag computations: the debounce machine (R80), the edge detector's conditions (R91, R92), when delivery
is enabled (R165), and the bits of the response ports (R31).
-/

namespace Sys2Proof.Machine

/-- The response of the debounce machine to the sampled level: the first sample of a press (R80). -/
def debounceResp (level handled : Bool) : Bool := level && !handled

/-- The next `handled` of the debounce machine (R80): set by a high sample, cleared by a low one. -/
def debounceNext (level handled : Bool) : Bool :=
  if level && !handled then true else if level && handled then handled else false

/-- A change of the line from 0 to 1 (R90). -/
def risingEdge (old new : Bool) : Bool := !old && new

/-- The detector latches an edge: selected, enabled, and not halted (R91). `unmask` and `in_cfg` play no part. -/
def State.armed (s : State) : Bool := s.srcSel && s.edgeEn && !s.halted

/-- An armed detector on a floating line may see edges nobody made (R92). -/
def State.mayLatchSpurious (s : State) : Bool := !s.inCfg && s.armed

/-- The callback may run (R165). -/
def State.deliverable (s : State) : Bool := s.pending && s.unmask && !s.halted

/-- The value on `resp` when it is valid: only POLL and TAKE respond (R69). -/
def Report.response : Report → Option Bool
  | .idle => none
  | .done => none
  | .doneWith b => some b
  | .halt _ => none
  | .ignored => none

/-- `cmd_done`: the operation has taken effect (R31). -/
def Report.cmdDone : Report → Bool
  | .idle => false
  | .done => true
  | .doneWith _ => true
  | .halt _ => false
  | .ignored => false

end Sys2Proof.Machine
end

