-- ==== Sys2Proof/Machine/Operands.lean ====
section
/-!
DEFINITION. Operand forms and the ring's arithmetic: the cyclic indexer (R110), reading and writing one line of a bus
(R111), the ring's names (R45), the Direction and the next position (R145).
-/

namespace Sys2Proof.Machine

/-- The cyclic indexer `line_at(p) = p mod 8`, the floored remainder (R110). Lean's `%` on integers is floored for a
positive divisor. -/
def lineAt (p : Int) : Line := BitVec.ofNat 3 (p % 8).toNat

/-- Bit `k` of a bus of eight lines (R45). -/
def getLine (v : Ring) (k : Line) : Bool := v.getLsbD k.toNat

/-- The selector: exactly line `k` takes the value `b` (R111). -/
def putLine (v : Ring) (k : Line) (b : Bool) : Ring :=
  if b then v ||| BitVec.twoPow 8 k.toNat else v &&& ~~~(BitVec.twoPow 8 k.toNat)

/-- How many lines of a bus are 1 (the `lit` of R144). -/
def litCount (v : Ring) : Nat := (List.range 8).countP fun k => v.getLsbD k

/-- The names of the ring positions, in the cyclic order of R45. -/
inductive RingName where
  | nw
  | n
  | ne
  | e
  | se
  | s
  | sw
  | w
deriving DecidableEq, Repr

/-- The position a name stands for (R45). -/
def RingName.position : RingName → Line
  | .nw => 0
  | .n => 1
  | .ne => 2
  | .e => 3
  | .se => 4
  | .s => 5
  | .sw => 6
  | .w => 7

/-- The signed unit value of a Direction (R27). -/
def Direction.toInt : Direction → Int
  | .plus => 1
  | .minus => -1

/-- The one bit that encodes a Direction: 0 is +1, 1 is -1 (R27). -/
def Direction.bit : Direction → Bool
  | .plus => false
  | .minus => true

/-- `-dir`, the other Direction (R7, R145). -/
def Direction.neg : Direction → Direction
  | .plus => .minus
  | .minus => .plus

/-- `(pos + dir) mod 8`: the sum is an integer in -1..8, taken without wrap (R145). -/
def nextPos (pos : Line) (dir : Direction) : Line := lineAt ((pos.toNat : Int) + dir.toInt)

/-- The codes of the fatal errors (R157). -/
def Fatal.code : Fatal → BitVec 3
  | .useBeforeInit => 1
  | .doubleInit => 2
  | .periphTaken => 3
  | .illegalCmd => 4

end Sys2Proof.Machine
end

