-- ==== Sys2Proof/Machine/Ops.lean ====
section
/-!
DEFINITION. The shared operations: the report of an operation (R69, R73), fatal entry (R158), the halted block's
deafness (R74), the two access primitives (R42, R44), the host's reset (R185).
-/

namespace Sys2Proof.Machine

/-- The same state with the response ports showing `r` (R31). -/
def State.reporting (s : State) (r : Report) : State := { s with report := r }

/-- `raise Fatal(c)`: `halted <- 1`, `cause <- c`, and nothing else (R158). There is no handler, no saved state and no
return: only reset leaves the halted state (R159). -/
def raiseFatal (c : Fatal) (s : State) : State := { s with halted := true, cause := c.code }

/-- An operation that raises a fatal error: outcome `halt(c)`, no response (R73, R158). -/
def haltWith (c : Fatal) (s : State) : Result := .next ((raiseFatal c s).reporting (.halt c))

/-- While halted every word has the outcome `ignored` and changes nothing (R74); halted is tested first (R65). -/
def whenRunning (s : State) (k : Result) : Result :=
  if s.halted then .next (s.reporting .ignored) else k

/-- An operation that took effect with no value: outcome `done` (R73). -/
def done (s : State) : Result := .next (s.reporting .done)

/-- An operation that took effect and responds `b`: outcome `done(b)` (R73). -/
def doneWith (b : Bool) (s : State) : Result := .next (s.reporting (.doneWith b))

/-- `MemRead(BTN, 1)` (R42): the level of a configured line; a fresh free value while the line floats. No side effect on
the line (R43). -/
def readButton (s : State) : Bool × State :=
  if s.inCfg then (s.line, s) else (Config.floatingLevel s.draws, { s with draws := s.draws + 1 })

/-- `MemWrite(LED + k, 1, b)` by an LED operation (R44): latch `k` takes `b`, outcome `done`; no meaning while line `k`
is not an output (R115). -/
def writeLed (k : Line) (b : Bool) (s : State) : Result :=
  if getLine s.outCfg k then done { s with led := putLine s.led k b } else .refused (.unconfiguredLine k)

/-- The rest of a step, once the operation it issued is done: not performed if the operation halted (R150). -/
def thenUnlessHalted (o : Result) (f : State → State) : Result :=
  match o with
  | .next t => if t.halted then .next t else .next (f t)
  | .fault r => .fault r
  | .refused r => .refused r

/-- The host's reset (R185): every element at its reset value, but the line, which is the environment's (R20), and the
model's own parameter, draw counter and turns to come. -/
def hostReset (s : State) : State :=
  { State.reset with line := s.line, design := s.design, draws := s.draws, inputs := s.inputs }

end Sys2Proof.Machine
end

