-- ==== Sys2Proof/Machine/Button.lean ====
section
/-!
DEFINITION. Button input, design (a): BTN_CFG_IN (R81), POLL (R82).
-/

namespace Sys2Proof.Machine

/-- BTN_CFG_IN: `in_cfg <- 1` (R81). -/
def execBtnCfgIn (s : State) : Result := whenRunning s (done { s with inCfg := true })

/-- One step of the debounce machine on the sampled level (R80, R82). -/
def pollSample (level : Bool) (s : State) : Result :=
  doneWith (debounceResp level s.handled) { s with handled := debounceNext level s.handled }

/-- POLL: sample the line once, step the debounce machine, respond (R82). -/
def execPoll (s : State) : Result :=
  whenRunning s (pollSample (readButton s).1 (readButton s).2)

end Sys2Proof.Machine
end

