-- ==== Sys2Proof/Machine/Edge.lean ====
section
/-!
DEFINITION. Button input, design (b): BTN_SEL_IRQ (R94), BTN_EDGE_EN (R95), CELL_INIT (R96), IRQ_UNMASK (R97), TAKE
(R98).
-/

namespace Sys2Proof.Machine

/-- BTN_SEL_IRQ: `src_sel <- 1` (R94). -/
def execBtnSelIrq (s : State) : Result := whenRunning s (done { s with srcSel := true })

/-- BTN_EDGE_EN: `edge_en <- 1` (R95). -/
def execBtnEdgeEn (s : State) : Result := whenRunning s (done { s with edgeEn := true })

/-- CELL_INIT: construct the cell with `pressed = 0`, DOUBLE_INIT if it exists (R96). -/
def execCellInit (s : State) : Result :=
  whenRunning s <|
    match s.cell with
    | some _ => haltWith .doubleInit s
    | none => done { s with cell := some false }

/-- IRQ_UNMASK: `unmask <- 1`, accepted while `cell = none` too (R97). -/
def execIrqUnmask (s : State) : Result := whenRunning s (done { s with unmask := true })

/-- TAKE: read and clear `pressed` in one step, USE_BEFORE_INIT if there is no cell (R98). -/
def execTake (s : State) : Result :=
  whenRunning s <|
    match s.cell with
    | none => haltWith .useBeforeInit s
    | some pressed => doneWith pressed { s with cell := some false }

end Sys2Proof.Machine
end

