-- ==== Sys2Proof/Machine/Led.lean ====
section
/-!
DEFINITION. The LED ring: LED_CFG_OUT (R112), LED_ASSERT (R113), LED_DEASSERT (R114).
-/

namespace Sys2Proof.Machine

/-- LED_CFG_OUT: line `line_at(p)` becomes an output; its latch keeps its value (R112). -/
def execLedCfgOut (p : Int) (s : State) : Result :=
  whenRunning s (done { s with outCfg := putLine s.outCfg (lineAt p) true })

/-- LED_ASSERT: line `line_at(p)` high (R113). -/
def execLedAssert (p : Int) (s : State) : Result := whenRunning s (writeLed (lineAt p) true s)

/-- LED_DEASSERT: line `line_at(p)` low (R114). -/
def execLedDeassert (p : Int) (s : State) : Result := whenRunning s (writeLed (lineAt p) false s)

end Sys2Proof.Machine
end

