-- ==== Sys2Proof/Machine/System.lean ====
section
/-!
DEFINITION. System operations: PERIPH_TAKE (R125), DELAY (R127).
-/

namespace Sys2Proof.Machine

/-- PERIPH_TAKE: acquire the peripherals handle, PERIPH_TAKEN if it is taken (R125). -/
def execPeriphTake (s : State) : Result :=
  whenRunning s (if s.periphTaken then haltWith .periphTaken s else done { s with periphTaken := true })

/-- DELAY: one step, no state of the block changes (R127). -/
def execDelay (s : State) : Result := whenRunning s (done s)

end Sys2Proof.Machine
end

