-- ==== Sys2Proof/Machine/Dispatch.lean ====
section
/-!
DEFINITION. The meaning of each operation, one arm per constructor.
-/

namespace Sys2Proof.Machine

def exec (i : Instr) (s : State) : Host.Outcome State Fault Refusal :=
  match i with
  | .periphTake => Sys2Proof.Machine.execPeriphTake s
  | .btnCfgIn => Sys2Proof.Machine.execBtnCfgIn s
  | .btnSelIrq => Sys2Proof.Machine.execBtnSelIrq s
  | .btnEdgeEn => Sys2Proof.Machine.execBtnEdgeEn s
  | .cellInit => Sys2Proof.Machine.execCellInit s
  | .irqUnmask => Sys2Proof.Machine.execIrqUnmask s
  | .poll => Sys2Proof.Machine.execPoll s
  | .take => Sys2Proof.Machine.execTake s
  | .ledCfgOut p => Sys2Proof.Machine.execLedCfgOut p s
  | .ledAssert p => Sys2Proof.Machine.execLedAssert p s
  | .ledDeassert p => Sys2Proof.Machine.execLedDeassert p s
  | .delay => Sys2Proof.Machine.execDelay s

end Sys2Proof.Machine
end

