-- ==== Sys2Proof/Machine/Interrupt.lean ====
section
/-!
DEFINITION. The rising-edge detector (R90 to R92), delivery (R165) and the callback (R166).
-/

namespace Sys2Proof.Machine

/-- `rising_edge()`: an armed detector sets `pending` (R91). -/
def latchEdge (s : State) : State := if s.armed then { s with pending := true } else s

/-- `LINE_SET(v)`: the environment sets the line, and a rising edge goes to the detector (R90). It happens whether or
not the block is halted. -/
def lineSet (v : Bool) (s : State) : State :=
  if risingEdge s.line v then latchEdge { s with line := v } else { s with line := v }

/-- A spurious edge, where R92 lets one occur; otherwise the turn does nothing. -/
def spuriousEdge (s : State) : State := if s.mayLatchSpurious then { s with pending := true } else s

/-- The callback (R166): clear `pending`, then set `pressed`; with no cell, USE_BEFORE_INIT before anything is cleared.
Entry changes no state of the block (R167) and the callback returns by itself with nothing to restore (R168). -/
def callback (s : State) : State :=
  match s.cell with
  | none => raiseFatal .useBeforeInit s
  | some _ => { s with pending := false, cell := some true }

/-- The interrupt agent's turn: the callback runs if and only if delivery is enabled (R165). -/
def deliver (s : State) : State := if s.deliverable then callback s else s

end Sys2Proof.Machine
end

