-- ==== Sys2Proof/Machine/Sequencer.lean ====
section
/-!
DEFINITION. The control loop as the reference sequencer: six phases, one indivisible step each (R136 to R142), and what a
halt inside a tick leaves (R150).
-/

namespace Sys2Proof.Machine

/-- The query of phase 0: POLL or TAKE, as `DESIGN` says (R137). -/
def queryButton (s : State) : Result :=
  match s.design with
  | .poll => execPoll s
  | .edge => execTake s

/-- Phase 0, polls the button: `fresh` takes the query's response (R137). -/
def phaseQuery (s : State) : Result :=
  thenUnlessHalted (queryButton s) fun t => { t with fresh := t.report.response.getD t.fresh, phase := 1 }

/-- Phase 1, flips the direction on a fresh press (R138). No operation is issued. -/
def phaseFlip (s : State) : Result :=
  .next { s with dir := if s.fresh then s.dir.neg else s.dir, phase := 2 }

/-- Phase 2, computes the next position (R139). No operation is issued. -/
def phaseCompute (s : State) : Result := .next { s with nxt := nextPos s.pos s.dir, phase := 3 }

/-- Phase 3, asserts the new line: `LED_ASSERT nxt` (R140). -/
def phaseAssert (s : State) : Result :=
  thenUnlessHalted (execLedAssert s.nxt.toNat s) fun t => { t with phase := 4 }

/-- Phase 4, deasserts the previous line: `LED_DEASSERT pos`, then `pos <- nxt` (R141). -/
def phaseDeassert (s : State) : Result :=
  thenUnlessHalted (execLedDeassert s.pos.toNat s) fun t => { t with pos := t.nxt, phase := 5 }

/-- Phase 5, sleeps: `DELAY`, then the next tick (R142). -/
def phaseSleep (s : State) : Result :=
  thenUnlessHalted (execDelay s) fun t => { t with phase := 0 }

/-- One step of the sequencer (R136). Halted, it takes no step (R159); `phase` 6 and 7 are no start states (U21). -/
def seqStep (s : State) : Result :=
  if s.halted then .next s
  else
    match s.phase with
    | 0#3 => phaseQuery s
    | 1#3 => phaseFlip s
    | 2#3 => phaseCompute s
    | 3#3 => phaseAssert s
    | 4#3 => phaseDeassert s
    | 5#3 => phaseSleep s
    | _ => .refused .unreachablePhase

end Sys2Proof.Machine
end

