-- ==== Sys2Proof/Machine/Agents.lean ====
section
/-!
DEFINITION. One agent's turn as one indivisible step (R50, R52), and the turn the machine takes next.
-/

namespace Sys2Proof.Machine

/-- A word on the command port (R65): ignored while halted, performed if a row matches, ILLEGAL_CMD if none does
(R66). -/
def issue (w : Word) (s : State) : Result :=
  whenRunning s <|
    match decode w with
    | .ok i => exec i s
    | .error _ => haltWith .illegalCmd s

/-- One agent's turn (R10). -/
def act (a : Turn) (s : State) : Result :=
  match a with
  | .cmd w => issue w s
  | .seqStep => seqStep s
  | .lineSet v => .next (lineSet v s)
  | .callback => .next (deliver s)
  | .spurious => .next (spuriousEdge s)
  | .reset => .next (hostReset s)

/-- The state in which the head turn is taken: the turn is consumed and the ports show no response, since a response is
not held (R69). -/
def State.begin (s : State) : State := { s with inputs := s.inputs.tail, report := .idle }

/-- The machine's turn: the head of `inputs` acts; with no turn to come, nothing acts and the ports fall idle. -/
def takeTurn (s : State) : Result :=
  match s.inputs with
  | [] => .next s.begin
  | a :: _ => act a s.begin

/-- The same state with the turn `a` to be taken next. -/
def State.offer (s : State) (a : Turn) : State := { s with inputs := a :: s.inputs }

/-- A command word of `nbits` bits placed on the command port, to be taken next (R31). -/
def State.offerWord (s : State) (nbits w : Nat) : State :=
  s.offer (.cmd (BitVec.ofNat 16 (w % 2 ^ nbits)))

end Sys2Proof.Machine
end

