-- ==== Sys2Proof/Machine/Step.lean ====
section
/-!
DEFINITION. One step of the machine, and how a word is put where the next step takes its operation from.
-/

namespace Sys2Proof.Machine

/-- One step: one agent's turn (R50, R52). -/
def step (s : State) : Host.Outcome State Fault Refusal := takeTurn s

/-- `s` with the word on the command port as the very next turn (R31, R46). -/
def State.withFetchWord (s : State) (nbits w : Nat) : State := s.offerWord nbits w

end Sys2Proof.Machine
end

