-- ==== Sys2Proof/Machine/Assembler.lean ====
section
/-!
DEFINITION. The assembler's syntax (R70) and the pseudo-operations (R72). Nothing the machine does depends on them. Log
entry 16.
-/

namespace Sys2Proof.Machine

/-- Why a line of source is no operation (R70). -/
inductive AsmError where
  | unknownMnemonic
  | missingOperand
  | unexpectedOperand
  | badOperand
  | operandOutOfRange
deriving DecidableEq, Repr

/-- A decimal digit's value. -/
def digitValue (c : Char) : Option Nat :=
  if '0'.toNat ≤ c.toNat ∧ c.toNat ≤ '9'.toNat then some (c.toNat - '0'.toNat) else none

/-- Decimal digits read from the left onto the value so far. -/
def digitsValue : List Char → Nat → Option Nat
  | [], n => some n
  | c :: cs, n =>
    match digitValue c with
    | some d => digitsValue cs (10 * n + d)
    | none => none

/-- A decimal integer, with a minus sign if negative (R70). -/
def decimalValue : List Char → Option Int
  | [] => none
  | ['-'] => none
  | '-' :: cs => (digitsValue cs 0).map fun n => -(n : Int)
  | cs => (digitsValue cs 0).map fun n => (n : Int)

/-- The ring names of R45 as they are written. -/
def ringNames : List (List Char × RingName) :=
  [("nw".toList, .nw), ("n".toList, .n), ("ne".toList, .ne), ("e".toList, .e),
   ("se".toList, .se), ("s".toList, .s), ("sw".toList, .sw), ("w".toList, .w)]

/-- A format I operand: a ring name standing for 0..7, or a decimal integer in -128..127, which is not reduced (R70). -/
def operandValue (cs : List Char) : Except AsmError Int :=
  match ringNames.lookup cs with
  | some r => .ok r.position.toNat
  | none =>
    match decimalValue cs with
    | some p => if positionFits p then .ok p else .error .operandOutOfRange
    | none => .error .badOperand

/-- The format Z mnemonics of R64. -/
def mnemonicsZ : List (List Char × Instr) :=
  [("PERIPH_TAKE".toList, .periphTake), ("BTN_CFG_IN".toList, .btnCfgIn), ("BTN_SEL_IRQ".toList, .btnSelIrq),
   ("BTN_EDGE_EN".toList, .btnEdgeEn), ("CELL_INIT".toList, .cellInit), ("IRQ_UNMASK".toList, .irqUnmask),
   ("POLL".toList, .poll), ("TAKE".toList, .take), ("DELAY".toList, .delay)]

/-- The operation a format I mnemonic of R64 makes of its position. -/
def mnemonicI (cs : List Char) : Option (Int → Instr) :=
  if cs = "LED_CFG_OUT".toList then some .ledCfgOut
  else if cs = "LED_ASSERT".toList then some .ledAssert
  else if cs = "LED_DEASSERT".toList then some .ledDeassert
  else none

/-- The line up to its comment: a `;` starts one (R70). -/
def uncomment (cs : List Char) : List Char := cs.takeWhile fun c => c ≠ ';'

/-- The words of a line, separated by spaces or tabs; `cur` is the word being read, reversed. -/
def splitWords : List Char → List Char → List (List Char)
  | [], [] => []
  | [], cur => [cur.reverse]
  | c :: cs, cur =>
    if c = ' ' ∨ c = '\t' then
      if cur = [] then splitWords cs [] else cur.reverse :: splitWords cs []
    else splitWords cs (c :: cur)

/-- A mnemonic and its operands (R70). -/
def assembleTokens (m : List Char) (ops : List (List Char)) : Except AsmError Instr :=
  match mnemonicsZ.lookup m with
  | some i => if ops = [] then .ok i else .error .unexpectedOperand
  | none =>
    match mnemonicI m with
    | none => .error .unknownMnemonic
    | some mk =>
      match ops with
      | [] => .error .missingOperand
      | [o] => (operandValue o).map mk
      | _ => .error .unexpectedOperand

/-- One line of source, one operation; a blank or comment line is none (R70). -/
def assembleLine (cs : List Char) : Except AsmError (Option Instr) :=
  match splitWords (uncomment cs) [] with
  | [] => .ok none
  | m :: ops => (assembleTokens m ops).map some

/-- `LED_MOVE old, new`: assert the new line before deasserting the old (R72, R143). -/
def ledMove (old new : Int) : List Instr := [.ledAssert new, .ledDeassert old]

/-- `LED_CFG_ALL` (R72). -/
def ledCfgAll : List Instr :=
  [.ledCfgOut 0, .ledCfgOut 1, .ledCfgOut 2, .ledCfgOut 3, .ledCfgOut 4, .ledCfgOut 5, .ledCfgOut 6, .ledCfgOut 7]

/-- `INIT.P`, boot for `DESIGN = poll` (R72, R189). -/
def initP : List Instr := [.periphTake, .btnCfgIn] ++ ledCfgAll

/-- `INIT.E`, boot for `DESIGN = edge` (R72, R190). -/
def initE : List Instr := initP ++ [.btnSelIrq, .btnEdgeEn, .cellInit, .irqUnmask]

/-- The turns in which the consumer issues these operations in order (R51). -/
def issuing (is : List Instr) : List Turn := is.map fun i => .cmd (encode i)

/-- `TICK.P` and `TICK.E`: one tick of the sequencer, phases 0 to 5 (R72, R136). Which of the two it is, `DESIGN`
says. -/
def tickTurns : List Turn := List.replicate 6 .seqStep

end Sys2Proof.Machine
end

