-- ==== Sys2Proof/Machine/Ports.lean ====
section
/-!
DEFINITION. The output ports as functions of the state (R23, R31).
-/

namespace Sys2Proof.Machine

/-- `led_out[7:0]` (R23): a configured line shows its latch; an unconfigured line is undriven and shows `any`, here bit
`k` of `undriven`, which the observer supplies afresh at each look. Log entry 6. -/
def State.ledOut (s : State) (undriven : Ring) : Ring :=
  (s.led &&& s.outCfg) ||| (undriven &&& ~~~s.outCfg)

/-- The output ports of R31. `resp` is `none` where `resp_valid = 0`: it has no value then. -/
structure Pins where
  cmdDone : Bool
  respValid : Bool
  resp : Option Bool
  ledOut : Ring
  halted : Bool
  cause : BitVec 3
deriving DecidableEq, Repr

/-- What the host observes (R10, R31), given what the undriven lines happen to show. -/
def State.pins (s : State) (undriven : Ring) : Pins where
  cmdDone := s.report.cmdDone
  respValid := s.report.response.isSome
  resp := s.report.response
  ledOut := s.ledOut undriven
  halted := s.halted
  cause := s.cause

end Sys2Proof.Machine
end

