-- ==== Sys2Proof/Safety.lean ====
section
/-!
DEFINITION. What counts as a safe run: the invariants of R33 and R144, the legal end of a run (R159), recorded runs, and
the weak fairness of delivery (R165).
-/

namespace Sys2Proof.Machine

/-- The invariants (1), (3) and (5) of R33, and that `cause` holds one of the codes of R157. Invariant (2), that
`pressed` has a value if and only if the cell exists, is `cell`'s type; (4) is about pairs of states. -/
structure Legal (s : State) : Prop where
  causeZero : s.cause = 0 ↔ s.halted = false
  causeCode : s.cause.toNat ≤ 4
  phaseRange : s.phase.toNat ≤ 5
  pendingArmed : s.pending = true → s.srcSel = true ∧ s.edgeEn = true

/-- A run completed normally: a halted state is never a final state of a correct run (R159). -/
def CompletedNormally (s : State) : Prop := s.halted = false

/-- Steady state of the ring (R144): the lit lines are `pos` alone, or `pos` and `nxt` between the assert and the
deassert; while the next line is chosen and not yet reached it is another line than `pos` (R146). -/
structure SteadyRing (s : State) : Prop where
  lit : ∀ k, getLine s.led k = true ↔ (k = s.pos ∨ (s.phase = 4 ∧ k = s.nxt))
  moving : s.phase = 3 ∨ s.phase = 4 → s.nxt ≠ s.pos
  phaseRange : s.phase.toNat ≤ 5

/-- A turn that leaves the ring to the sequencer: no reset, and no LED write issued past it (R119). -/
def leavesRing : Turn → Bool
  | .cmd w => opcField w != 0xA && opcField w != 0xB
  | .seqStep => true
  | .lineSet _ => true
  | .callback => true
  | .spurious => true
  | .reset => false

/-- The level of the line once a turn short of reset is taken: only the environment moves it (R20). -/
def lineAfter (a : Turn) (old : Bool) : Bool :=
  match a with
  | .lineSet v => v
  | .cmd _ => old
  | .seqStep => old
  | .callback => old
  | .spurious => old
  | .reset => old

/-- What the response ports show for a turn of a halted block: a word is ignored, no other turn responds (R74). -/
def haltedReport (a : Turn) : Report :=
  match a with
  | .cmd _ => .ignored
  | .seqStep => .idle
  | .lineSet _ => .idle
  | .callback => .idle
  | .spurious => .idle
  | .reset => .idle

/-- One turn of a recorded run. -/
structure Entry where
  turn : Turn
  before : State
  after : State
deriving DecidableEq, Repr

/-- The turns taken one by one from a state: what was recorded, and the state reached; `none` if a step stops. -/
def record : List Turn → State → Option (List Entry × State)
  | [], s => some ([], s)
  | a :: as, s =>
    match step (s.offer a) with
    | .next t =>
      match record as t with
      | some (es, u) => some (⟨a, s, t⟩ :: es, u)
      | none => none
    | .fault _ => none
    | .refused _ => none

/-- In this turn a POLL was issued, or is the query of phase 0 (R82, R137). -/
def Entry.isPoll (e : Entry) : Bool :=
  decide (e.turn = .cmd 0x7000) ||
    (decide (e.turn = .seqStep) && decide (e.before.phase = 0) && decide (e.before.design = .poll))

/-- In this turn a TAKE was issued, or is the query of phase 0 (R98, R137). -/
def Entry.isTake (e : Entry) : Bool :=
  decide (e.turn = .cmd 0x8000) ||
    (decide (e.turn = .seqStep) && decide (e.before.phase = 0) && decide (e.before.design = .edge))

/-- The level on the line and the response at each POLL of a recorded run that took effect, the control loop's own
among them (R83, R137). -/
def pollSamples (es : List Entry) : List (Bool × Bool) :=
  es.filterMap fun e => if e.isPoll then e.after.report.response.map fun b => (e.before.line, b) else none

/-- For each level of a sampled sequence, whether it is the first 1 of a maximal run of 1s; `prev` is the level before
the sequence (R83). -/
def firstsOfRuns : Bool → List Bool → List Bool
  | _, [] => []
  | prev, l :: ls => (l && !prev) :: firstsOfRuns l ls

/-- In this turn the callback ran (R165). -/
def Entry.ranCallback (e : Entry) : Bool := decide (e.turn = .callback) && e.before.deliverable

/-- An infinite run: turn `n` takes state `n` to state `n + 1`. -/
def IsRun (turns : Nat → Turn) (states : Nat → State) : Prop :=
  ∀ n, step ((states n).offer (turns n)) = .next (states (n + 1))

/-- Weak fairness of delivery (R165 (b)): if delivery stays enabled from some boundary on, the interrupt agent gets a
turn after finitely many boundaries. -/
def WeaklyFair (turns : Nat → Turn) (states : Nat → State) : Prop :=
  ∀ n, (∀ m, n ≤ m → (states m).deliverable = true) → ∃ m, n ≤ m ∧ turns m = .callback

end Sys2Proof.Machine
end

