-- ==== Sys2Proof/Certificates/Slice0/Obligations.lean ====
section
/-!
DEFINITION. The statements for the provers, one `def Obligations.<Name> : Prop` each. `s.offer a` is `s` with the turn
`a` to be taken next, so `step (s.offer a)` is that turn taken from `s`. An equation with a next state says the whole
frame: what it does not name is unchanged.
-/

open Sys2Proof Sys2Proof.Machine

/-! ## Words and instructions -/

/-- Every well-formed instruction is read back from its word. -/
def Obligations.DecodeEncodeRoundTrip : Prop :=
  ∀ i : Instr, i.wf = true → decode (encode i) = .ok i

/-- Every legal word is the word of the well-formed instruction it decodes to. -/
def Obligations.EncodeDecodeRoundTrip : Prop :=
  ∀ (w : Word) (i : Instr), decode w = .ok i → i.wf = true ∧ encode i = w

/-- The decoder reads exactly what the opcode map of R64 selects: the row, and the operand bits as they stand. -/
def Obligations.DecodeFollowsOpcodeMap : Prop :=
  ∀ (w : Word) (i : Instr),
    decode w = .ok i ↔
      ∃ r ∈ opcodeMap, r.selects w = true ∧ i.opcode = r.opc ∧ i.imm8 = w.extractLsb' 0 8 ∧ i.wf = true

/-- A word is illegal in exactly the three cases of R66. -/
def Obligations.IllegalWordsAreTheThreeCases : Prop :=
  ∀ w : Word,
    (∀ i, decode w ≠ .ok i) ↔
      (w.extractLsb' 12 4 ∈ [0x0#4, 0xD#4, 0xE#4, 0xF#4] ∨ w.extractLsb' 8 4 ≠ 0#4 ∨
        (w.extractLsb' 12 4 ∉ [0x9#4, 0xA#4, 0xB#4] ∧ w.extractLsb' 0 8 ≠ 0#8))

/-- Words written out from R64 and R70 decode to the operations they stand for. -/
def Obligations.WordsOfTheTableDecode : Prop :=
  decode 0b0001_0000_0000_0000#16 = .ok .periphTake ∧ decode 0b0111_0000_0000_0000#16 = .ok .poll ∧
  decode 0b1000_0000_0000_0000#16 = .ok .take ∧ decode 0b1001_0000_0000_0101#16 = .ok (.ledCfgOut 5) ∧
  decode 0b1010_0000_0000_0011#16 = .ok (.ledAssert 3) ∧ decode 0b1011_0000_1111_1111#16 = .ok (.ledDeassert (-1))

/-- A command turn whose word decodes runs that instruction, the turn consumed and the ports cleared of the last
response. -/
def Obligations.StepRunsDecodedInstruction : Prop :=
  ∀ (s : State) (w : Word) (rest : List Turn) (i : Instr),
    s.inputs = .cmd w :: rest → decode w = .ok i → step s = exec i { s with inputs := rest, report := .idle }

/-- An illegal word halts with cause 4 and changes nothing else (R66, R156; the halt is the spec's own decision D6). -/
def Obligations.IllegalWordHaltsWithCauseFour : Prop :=
  ∀ (s : State) (w : Word), s.halted = false → (∀ i, decode w ≠ .ok i) →
    step (s.offer (.cmd w)) = .next { s with halted := true, cause := 4, report := .halt .illegalCmd }

/-! ## The twelve operations -/

/-- R81 (that issuing it again is no error is the spec's own decision D34). -/
def Obligations.BtnCfgInConfiguresTheLine : Prop :=
  decode 0x2000 = .ok .btnCfgIn ∧
  ∀ s : State, s.halted = false → exec .btnCfgIn s = .next { s with inCfg := true, report := .done }

/-- R94 (re-issue: D34). -/
def Obligations.BtnSelIrqSelectsTheSource : Prop :=
  decode 0x3000 = .ok .btnSelIrq ∧
  ∀ s : State, s.halted = false → exec .btnSelIrq s = .next { s with srcSel := true, report := .done }

/-- R95 (re-issue: D34). -/
def Obligations.BtnEdgeEnEnablesTheRisingEdge : Prop :=
  decode 0x4000 = .ok .btnEdgeEn ∧
  ∀ s : State, s.halted = false → exec .btnEdgeEn s = .next { s with edgeEn := true, report := .done }

/-- R96. -/
def Obligations.CellInitConstructsOnce : Prop :=
  decode 0x5000 = .ok .cellInit ∧
  ∀ s : State, s.halted = false →
    (s.cell = none → exec .cellInit s = .next { s with cell := some false, report := .done }) ∧
    (s.cell ≠ none →
      exec .cellInit s = .next { s with halted := true, cause := 2, report := .halt .doubleInit })

/-- R97: unmasked, and with an edge pending delivery is enabled at the very next boundary (re-issue: D34; acceptance while
there is no cell: D35). -/
def Obligations.IrqUnmaskUnmasks : Prop :=
  decode 0x6000 = .ok .irqUnmask ∧
  ∀ s : State, s.halted = false →
    exec .irqUnmask s = .next { s with unmask := true, report := .done } ∧
    (s.pending = true → State.deliverable { s with unmask := true, report := .done } = true)

/-- R82, with the table of R80: `handled` becomes the sampled level and the response is the first sample of a press. A
configured line gives its level and draws nothing; a floating one gives whatever level was drawn (R42). -/
def Obligations.PollStepsTheDebounceMachine : Prop :=
  decode 0x7000 = .ok .poll ∧
  ∀ s : State, s.halted = false →
    ∃ (level : Bool) (n : Nat), (s.inCfg = true → level = s.line ∧ n = s.draws) ∧
      exec .poll s =
        .next { s with handled := level, draws := n, report := .doneWith (level && !s.handled) }

/-- R98. -/
def Obligations.TakeReadsAndClearsTheLatch : Prop :=
  decode 0x8000 = .ok .take ∧
  ∀ s : State, s.halted = false →
    (∀ pressed, s.cell = some pressed →
      exec .take s = .next { s with cell := some false, report := .doneWith pressed }) ∧
    (s.cell = none →
      exec .take s = .next { s with halted := true, cause := 1, report := .halt .useBeforeInit })

/-- R125. -/
def Obligations.PeriphTakeSucceedsOnce : Prop :=
  decode 0x1000 = .ok .periphTake ∧
  ∀ s : State, s.halted = false →
    (s.periphTaken = false → exec .periphTake s = .next { s with periphTaken := true, report := .done }) ∧
    (s.periphTaken = true →
      exec .periphTake s = .next { s with halted := true, cause := 3, report := .halt .periphTaken })

/-- R127. -/
def Obligations.DelayChangesNoState : Prop :=
  decode 0xC000 = .ok .delay ∧
  ∀ s : State, s.halted = false → exec .delay s = .next { s with report := .done }

/-- R112: for every integer position, line `p mod 8` (floored) becomes an output, the other seven bits and all latches
stay (re-issue: D34; the reduction of the operand: D9). -/
def Obligations.LedCfgOutConfiguresOneLine : Prop :=
  (∀ imm8 : BitVec 8, decode (0x9000 ||| imm8.setWidth 16) = .ok (.ledCfgOut imm8.toInt)) ∧
  ∀ (p : Int) (s : State), s.halted = false →
    ∃ cfg : Ring, exec (.ledCfgOut p) s = .next { s with outCfg := cfg, report := .done } ∧
      ∀ k : Line, getLine cfg k = (decide ((k.toNat : Int) = p.fmod 8) || getLine s.outCfg k)

/-- R113: line `p mod 8` goes high, the other seven latches stay, its pin follows; without its configuration the write
is refused (R115). -/
def Obligations.LedAssertRaisesOneLine : Prop :=
  (∀ imm8 : BitVec 8, decode (0xA000 ||| imm8.setWidth 16) = .ok (.ledAssert imm8.toInt)) ∧
  ∀ (p : Int) (k : Line) (s : State), s.halted = false → (k.toNat : Int) = p.fmod 8 →
    (getLine s.outCfg k = true →
      ∃ led : Ring, exec (.ledAssert p) s = .next { s with led := led, report := .done } ∧
        getLine led k = true ∧ (∀ j, j ≠ k → getLine led j = getLine s.led j) ∧
        ∀ undriven, getLine (State.ledOut { s with led := led } undriven) k = true) ∧
    (getLine s.outCfg k = false → exec (.ledAssert p) s = .refused (.unconfiguredLine k))

/-- R114: line `p mod 8` goes low, the other seven latches stay, its pin follows; without its configuration the write
is refused (R115). -/
def Obligations.LedDeassertLowersOneLine : Prop :=
  (∀ imm8 : BitVec 8, decode (0xB000 ||| imm8.setWidth 16) = .ok (.ledDeassert imm8.toInt)) ∧
  ∀ (p : Int) (k : Line) (s : State), s.halted = false → (k.toNat : Int) = p.fmod 8 →
    (getLine s.outCfg k = true →
      ∃ led : Ring, exec (.ledDeassert p) s = .next { s with led := led, report := .done } ∧
        getLine led k = false ∧ (∀ j, j ≠ k → getLine led j = getLine s.led j) ∧
        ∀ undriven, getLine (State.ledOut { s with led := led } undriven) k = false) ∧
    (getLine s.outCfg k = false → exec (.ledDeassert p) s = .refused (.unconfiguredLine k))

/-! ## Operands and pins -/

/-- R110: the floored remainder, for the 8-bit operand its low three bits. -/
def Obligations.LineAtIsTheFlooredRemainder : Prop :=
  (∀ p : Int, ((lineAt p).toNat : Int) = p.fmod 8) ∧
  ∀ imm8 : BitVec 8, lineAt imm8.toInt = imm8.extractLsb' 0 3

/-- R116. -/
def Obligations.LineAtWrapsEveryEight : Prop :=
  ∀ p n : Int, lineAt p = lineAt (p + 8 * n)

/-- R45: the eight names, in their cyclic order, are the positions 0 to 7, each exactly once. -/
def Obligations.RingNamesAreThePositions : Prop :=
  [RingName.nw, .n, .ne, .e, .se, .s, .sw, .w].map RingName.position = [0, 1, 2, 3, 4, 5, 6, 7] ∧
  ∀ k : Line, ∃ r : RingName, r.position = k ∧ ∀ r' : RingName, r'.position = k → r' = r

/-- R23: a configured line's pin is its latch; an unconfigured line's pin is whatever it happens to show. -/
def Obligations.PinsShowConfiguredLatches : Prop :=
  ∀ (s : State) (undriven : Ring) (k : Line),
    getLine (s.ledOut undriven) k = if getLine s.outCfg k = true then getLine s.led k else getLine undriven k

/-- R145: (1) the next position is the floored remainder of the exact sum, which in three bits is adding 001 or 111;
(2) the other Direction; (3) the cyclic indexer. -/
def Obligations.NextPositionIsTheRingSum : Prop :=
  (∀ (pos : Line) (dir : Direction),
    ((nextPos pos dir).toNat : Int) = ((pos.toNat : Int) + dir.toInt).fmod 8 ∧
    nextPos pos dir = pos + (if dir.bit then 0b111#3 else 0b001#3)) ∧
  (∀ dir : Direction, dir.neg.toInt = -dir.toInt ∧ dir.neg.bit = !dir.bit) ∧
  ∀ p : Int, ((lineAt p).toNat : Int) = p.fmod 8

/-- R146 (an inference the spec marks as its own): a hop never stays, and a hop the other way undoes it. -/
def Obligations.HopsMoveAndReverse : Prop :=
  ∀ (pos : Line) (dir : Direction), nextPos pos dir ≠ pos ∧ nextPos (nextPos pos dir) dir.neg = pos

/-! ## The environment, the interrupt, the halt, reset -/

/-- R90 and R91: the line takes its level; a rising edge is latched if the detector is armed, and nothing else changes. -/
def Obligations.LineSetMovesTheLineAndLatchesEdges : Prop :=
  ∀ (s : State) (v : Bool),
    step (s.offer (.lineSet v)) =
      .next { s with line := v, report := .idle,
                     pending := s.pending || (!s.line && v && s.srcSel && s.edgeEn && !s.halted) }

/-- R92 (the spec's own reading D33): a spurious edge sets `pending` only where the line floats and the detector is
armed. That a turn where it is not possible changes nothing is the model's choice (log entry 12). -/
def Obligations.SpuriousEdgesNeedAFloatingArmedLine : Prop :=
  ∀ s : State,
    step (s.offer .spurious) =
      .next { s with report := .idle,
                     pending := s.pending || (!s.inCfg && s.srcSel && s.edgeEn && !s.halted) }

/-- R166 at a boundary where R165 enables delivery: the callback clears `pending` and sets `pressed`; with no cell it
halts and leaves `pending` as it is. -/
def Obligations.CallbackRunsWhenDeliverable : Prop :=
  ∀ s : State, s.pending = true → s.unmask = true → s.halted = false →
    (∀ pressed, s.cell = some pressed →
      step (s.offer .callback) = .next { s with pending := false, cell := some true, report := .idle }) ∧
    (s.cell = none →
      step (s.offer .callback) = .next { s with halted := true, cause := 1, report := .idle })

/-- The model's form of the 'only if' of R165 (log entry 12): where delivery is not enabled the interrupt agent's turn
changes nothing. -/
def Obligations.CallbackTurnIdlesWhenNotDeliverable : Prop :=
  ∀ s : State, ¬(s.pending = true ∧ s.unmask = true ∧ s.halted = false) →
    step (s.offer .callback) = .next { s with report := .idle }

/-- R74 and R159, with R90 for the line: while halted nothing but the line moves, whatever turn is taken, short of reset; a
word is ignored. That a callback or spurious turn, which R165 and R92 do not admit there, answers an unchanged next state
is the model's choice (log entry 12). -/
def Obligations.HaltedBlockMovesOnlyTheLine : Prop :=
  ∀ (s : State) (a : Turn), s.halted = true → a ≠ .reset →
    step (s.offer a) = .next { s with line := lineAfter a s.line, report := haltedReport a }

/-- R186, by the reset of R185: from any state, halted or not, every element takes its reset value; `line` stays as it
is, and `pressed` is 0 once CELL_INIT makes it. The values the source does not give are the spec's own decisions D17 and
D18 (log entry 10). -/
def Obligations.ResetGivesTheResetValues : Prop :=
  ∀ s : State, ∃ t, step (s.offer .reset) = .next t ∧
    t.handled = false ∧ t.cell = none ∧ t.pending = false ∧ t.srcSel = false ∧ t.edgeEn = false ∧
    t.unmask = false ∧ t.inCfg = false ∧ (∀ k, getLine t.led k = false) ∧ (∀ k, getLine t.outCfg k = false) ∧
    t.periphTaken = false ∧ t.halted = false ∧ t.cause = 0 ∧ t.pos = 0 ∧ t.dir.toInt = 1 ∧ t.dir.bit = false ∧
    t.fresh = false ∧ t.nxt = 0 ∧ t.phase = 0 ∧ t.line = s.line ∧
    exec .cellInit t = .next { t with cell := some false, report := .done }

/-- R157 and R158: an operation raises a fatal error exactly where the table says, and then it writes `halted` and
`cause` and nothing else. -/
def Obligations.FatalErrorsFollowTheTable : Prop :=
  ∀ (i : Instr) (s t : State), s.halted = false → exec i s = .next t →
    (t.halted = true ↔
      (i = .take ∧ s.cell = none) ∨ (i = .cellInit ∧ s.cell ≠ none) ∨ (i = .periphTake ∧ s.periphTaken = true)) ∧
    (t.halted = true →
      ∃ c : Fatal, t = { s with halted := true, cause := c.code, report := .halt c } ∧
        (i = .take → c.code = 1) ∧ (i = .cellInit → c.code = 2) ∧ (i = .periphTake → c.code = 3))

/-- R73: a word has exactly one of the five outcomes, responses come from POLL and TAKE only, and only an LED write is
refused. -/
def Obligations.EveryWordHasOneOfFiveOutcomes : Prop :=
  ∀ (s : State) (w : Word),
    (∃ t, step (s.offer (.cmd w)) = .next t ∧
      (s.halted = true ↔ t.report = .ignored) ∧ t.report ≠ .idle ∧
      ((∃ b, t.report = .doneWith b) → w = 0x7000 ∨ w = 0x8000) ∧
      ((∃ c, t.report = .halt c) ↔ s.halted = false ∧ t.halted = true)) ∨
    (s.halted = false ∧ (∃ k, step (s.offer (.cmd w)) = .refused (.unconfiguredLine k)) ∧
      ∃ p, decode w = .ok (.ledAssert p) ∨ decode w = .ok (.ledDeassert p))

/-! ## The sequencer -/

/-- R137, with R150 for a TAKE that halts. -/
def Obligations.PhaseZeroQueriesTheButton : Prop :=
  ∀ s : State, s.halted = false → s.phase = 0 →
    (s.design = .poll →
      ∃ (level : Bool) (n : Nat), (s.inCfg = true → level = s.line ∧ n = s.draws) ∧
        step (s.offer .seqStep) =
          .next { s with handled := level, draws := n, fresh := level && !s.handled, phase := 1,
                         report := .doneWith (level && !s.handled) }) ∧
    (s.design = .edge →
      (∀ pressed, s.cell = some pressed →
        step (s.offer .seqStep) =
          .next { s with cell := some false, fresh := pressed, phase := 1, report := .doneWith pressed }) ∧
      (s.cell = none →
        step (s.offer .seqStep) =
          .next { s with halted := true, cause := 1, report := .halt .useBeforeInit }))

/-- R138. -/
def Obligations.PhaseOneFlipsOnAFreshPress : Prop :=
  ∀ s : State, s.halted = false → s.phase = 1 →
    ∃ d : Direction, step (s.offer .seqStep) = .next { s with dir := d, phase := 2, report := .idle } ∧
      d.toInt = if s.fresh = true then -s.dir.toInt else s.dir.toInt

/-- R139. -/
def Obligations.PhaseTwoComputesTheNextPosition : Prop :=
  ∀ s : State, s.halted = false → s.phase = 2 →
    ∃ n : Line, step (s.offer .seqStep) = .next { s with nxt := n, phase := 3, report := .idle } ∧
      (n.toNat : Int) = ((s.pos.toNat : Int) + s.dir.toInt).fmod 8

/-- R140, and the refusal of its LED_ASSERT where the line is no output (R115). -/
def Obligations.PhaseThreeAssertsTheNewLine : Prop :=
  ∀ s : State, s.halted = false → s.phase = 3 →
    (getLine s.outCfg s.nxt = true →
      ∃ led : Ring, step (s.offer .seqStep) = .next { s with led := led, phase := 4, report := .done } ∧
        ∀ k, getLine led k = (decide (k = s.nxt) || getLine s.led k)) ∧
    (getLine s.outCfg s.nxt = false → step (s.offer .seqStep) = .refused (.unconfiguredLine s.nxt))

/-- R141, and the refusal of its LED_DEASSERT where the line is no output (R115). -/
def Obligations.PhaseFourDeassertsTheOldLine : Prop :=
  ∀ s : State, s.halted = false → s.phase = 4 →
    (getLine s.outCfg s.pos = true →
      ∃ led : Ring,
        step (s.offer .seqStep) = .next { s with led := led, pos := s.nxt, phase := 5, report := .done } ∧
        ∀ k, getLine led k = (decide (k ≠ s.pos) && getLine s.led k)) ∧
    (getLine s.outCfg s.pos = false → step (s.offer .seqStep) = .refused (.unconfiguredLine s.pos))

/-- R142. -/
def Obligations.PhaseFiveSleepsAndWraps : Prop :=
  ∀ s : State, s.halted = false → s.phase = 5 →
    step (s.offer .seqStep) = .next { s with phase := 0, report := .done }

/-- One whole tick, phases 0 to 5 with no other turn between them, for both designs (R136 with R137 to R142): the press
reverses this same tick's hop, the new line is lit, the old one dark, the others as they were. -/
def Obligations.OneTickHopsOneLine : Prop :=
  ∀ (s : State) (press : Bool), s.halted = false → s.phase = 0 → (∀ k, getLine s.outCfg k = true) →
    (s.design = .poll → s.inCfg = true ∧ press = (s.line && !s.handled)) →
    (s.design = .edge → s.cell = some press) →
    ∃ es t, record tickTurns s = some (es, t) ∧ t.phase = 0 ∧ t.halted = false ∧ t.fresh = press ∧
      t.dir.toInt = (if press then -s.dir.toInt else s.dir.toInt) ∧
      (t.pos.toNat : Int) = ((s.pos.toNat : Int) + t.dir.toInt).fmod 8 ∧
      (∀ k, getLine t.led k = (decide (k = t.pos) || (decide (k ≠ s.pos) && getLine s.led k))) ∧
      t.outCfg = s.outCfg ∧ t.inCfg = s.inCfg ∧ t.line = s.line ∧ t.pending = s.pending ∧ t.design = s.design ∧
      (s.design = .poll → t.handled = s.line ∧ t.cell = s.cell) ∧
      (s.design = .edge → t.cell = some false ∧ t.handled = s.handled)

/-- R85's scenario in the loop (an inference the spec marks as its own): a button held high through three ticks from
`handled = 0` gives responses 1, 0, 0 and one flip. -/
def Obligations.HeldPressFlipsOnceInThreeTicks : Prop :=
  ∀ s : State, s.halted = false → s.phase = 0 → (∀ k, getLine s.outCfg k = true) →
    s.design = .poll → s.inCfg = true → s.line = true → s.handled = false →
    ∃ es t, record (tickTurns ++ tickTurns ++ tickTurns) s = some (es, t) ∧
      es.filterMap (fun e => e.after.report.response) = [true, false, false] ∧
      t.dir = s.dir.neg ∧ t.handled = true ∧
      (t.pos.toNat : Int) = ((s.pos.toNat : Int) - 3 * s.dir.toInt).fmod 8

/-- R150: with the polling design no sequencer step halts, whatever the state. -/
def Obligations.PollingLoopNeverHalts : Prop :=
  ∀ (n : Nat) (s t : State) (es : List Entry), s.design = .poll → s.halted = false →
    record (List.replicate n .seqStep) s = some (es, t) → t.halted = false

/-! ## Invariants of every step -/

/-- The reset state satisfies the invariants of R33. -/
def Obligations.ResetIsLegal : Prop := Legal State.reset

/-- Every step keeps the invariants of R33, from every state that has them. -/
def Obligations.EveryStepKeepsLegal : Prop :=
  ∀ s t : State, Legal s → step s = .next t → Legal t

/-- R144: every step that leaves the ring to the sequencer keeps steady state. -/
def Obligations.StepsKeepSteadyRing : Prop :=
  ∀ (s t : State) (a : Turn), leavesRing a = true → SteadyRing s → step (s.offer a) = .next t → SteadyRing t

/-- R144: from a dark ring (which is the reset value, the spec's own decision D17) the first tick's phases 3 and 4 reach
steady state. -/
def Obligations.FirstTickReachesSteadyRing : Prop :=
  ∀ s : State, s.halted = false → s.led = 0 → s.phase = 3 → s.nxt ≠ s.pos →
    getLine s.outCfg s.nxt = true → getLine s.outCfg s.pos = true →
    ∃ es t, record [.seqStep, .seqStep] s = some (es, t) ∧ SteadyRing t

/-- R144: in steady state one line is lit, two between the assert and the deassert, never none. -/
def Obligations.SteadyRingLightsOneOrTwo : Prop :=
  ∀ s : State, SteadyRing s → litCount s.led = if s.phase = 4 then 2 else 1

/-- R33 (4) with R16 to R19, R22 and R24: short of reset a configuration bit changes only when its own operation is
issued, and only to 1. -/
def Obligations.ConfigurationBitsOnlyRise : Prop :=
  ∀ (s t : State) (a : Turn), a ≠ .reset → step (s.offer a) = .next t →
    (t.inCfg = s.inCfg ∨ (a = .cmd 0x2000 ∧ t.inCfg = true)) ∧
    (t.srcSel = s.srcSel ∨ (a = .cmd 0x3000 ∧ t.srcSel = true)) ∧
    (t.edgeEn = s.edgeEn ∨ (a = .cmd 0x4000 ∧ t.edgeEn = true)) ∧
    (t.unmask = s.unmask ∨ (a = .cmd 0x6000 ∧ t.unmask = true)) ∧
    (t.periphTaken = s.periphTaken ∨ (a = .cmd 0x1000 ∧ t.periphTaken = true)) ∧
    (t.outCfg = s.outCfg ∨
      ∃ imm8 : BitVec 8, a = .cmd (0x9000 ||| imm8.setWidth 16) ∧
        t.outCfg = s.outCfg ||| BitVec.twoPow 8 (imm8.extractLsb' 0 3).toNat) ∧
    (s.halted = true → t.halted = true ∧ t.cause = s.cause)

/-- R13 and R14: short of reset the cell leaves `none` only by CELL_INIT, as `some(0)`; `pressed` rises only in the
callback and falls only in a TAKE, issued or made by phase 0. -/
def Obligations.CellChangesOnlyAsR13AndR14Say : Prop :=
  ∀ (s t : State) (a : Turn), a ≠ .reset → step (s.offer a) = .next t → t.cell ≠ s.cell →
    (a = .cmd 0x5000 ∧ s.cell = none ∧ t.cell = some false) ∨
    (a = .callback ∧ s.cell = some false ∧ t.cell = some true ∧ s.pending = true ∧ t.pending = false) ∨
    ((a = .cmd 0x8000 ∨ (a = .seqStep ∧ s.phase = 0 ∧ s.design = .edge)) ∧
      s.cell = some true ∧ t.cell = some false)

/-- R12, R21 and R119: short of reset only POLL, issued or made by phase 0, touches `handled`; a latch changes only where
an LED write, issued or made by phases 3 and 4, writes it: line `line_at(p)` of the operation issued, `nxt` in phase 3,
`pos` in phase 4. -/
def Obligations.HandledAndLatchesHaveOneWriter : Prop :=
  ∀ (s t : State) (a : Turn), a ≠ .reset → step (s.offer a) = .next t →
    (t.handled ≠ s.handled → a = .cmd 0x7000 ∨ (a = .seqStep ∧ s.phase = 0 ∧ s.design = .poll)) ∧
    ∀ j, getLine t.led j ≠ getLine s.led j →
      (∃ w p, a = .cmd w ∧ j = lineAt p ∧
        ((decode w = .ok (.ledAssert p) ∧ getLine t.led j = true) ∨
          (decode w = .ok (.ledDeassert p) ∧ getLine t.led j = false))) ∨
      (a = .seqStep ∧ s.phase = 3 ∧ j = s.nxt ∧ getLine t.led j = true) ∨
      (a = .seqStep ∧ s.phase = 4 ∧ j = s.pos ∧ getLine t.led j = false)

/-- R26 to R29: short of reset the sequencer's state is written by the sequencer alone, each element in its own phase;
the Direction changes only on a confirmed fresh press. -/
def Obligations.SequencerStateIsTheSequencers : Prop :=
  ∀ (s t : State) (a : Turn), a ≠ .reset → step (s.offer a) = .next t →
    (t.dir ≠ s.dir → a = .seqStep ∧ s.phase = 1 ∧ s.fresh = true ∧ t.dir = s.dir.neg) ∧
    (t.pos ≠ s.pos → a = .seqStep ∧ s.phase = 4 ∧ t.pos = s.nxt) ∧
    (t.nxt ≠ s.nxt → a = .seqStep ∧ s.phase = 2) ∧
    (t.fresh ≠ s.fresh → a = .seqStep ∧ s.phase = 0) ∧
    (t.phase ≠ s.phase → a = .seqStep ∧ t.phase.toNat = (s.phase.toNat + 1) % 6) ∧
    t.design = s.design

/-- R15: no operation of the consumer reads or writes `pending`: changed before, it is changed after, and nothing else
differs. -/
def Obligations.OperationsDoNotTouchPending : Prop :=
  ∀ (i : Instr) (s : State) (b : Bool),
    match exec i s with
    | .next t => t.pending = s.pending ∧ exec i { s with pending := b } = .next { t with pending := b }
    | .refused r => exec i { s with pending := b } = .refused r
    | .fault r => exec i { s with pending := b } = .fault r

/-- R126: no operation but PERIPH_TAKE reads `periph_taken` (the spec's own decision D22). -/
def Obligations.OnlyPeriphTakeReadsTheHandle : Prop :=
  ∀ (i : Instr) (s : State) (b : Bool), i ≠ .periphTake →
    match exec i s with
    | .next t =>
      t.periphTaken = s.periphTaken ∧ exec i { s with periphTaken := b } = .next { t with periphTaken := b }
    | .refused r => exec i { s with periphTaken := b } = .refused r
    | .fault r => exec i { s with periphTaken := b } = .fault r

/-- With every line an output and a phase the sequencer can be in, every turn of every agent has a next state: nothing
but an unconfigured LED write and phases 6 and 7 ever stops the machine (R56, R73, R161). That a callback or spurious turn
which is not enabled has one too is the model's choice (log entry 12), and so is the step with no turn to come (log entry
1). -/
def Obligations.ConfiguredMachineNeverStops : Prop :=
  ∀ s : State, (∀ k, getLine s.outCfg k = true) → s.phase.toNat ≤ 5 → ∃ t, step s = .next t

/-! ## Contracts over runs -/

/-- R83 for every run of a configured line short of reset, whatever other turns fall between the POLLs, the POLLs issued
and those the control loop makes in phase 0: the responses are true exactly at the first sample of each maximal run of
high samples (an inference the spec marks as its own, from the source's sentence). -/
def Obligations.PollReportsEachRunOfHighSamplesOnce : Prop :=
  ∀ (as : List Turn) (s t : State) (es : List Entry),
    s.inCfg = true → (∀ a ∈ as, a ≠ .reset) → record as s = some (es, t) →
    (pollSamples es).map Prod.snd = firstsOfRuns s.handled ((pollSamples es).map Prod.fst)

/-- R99 for every run between two TAKEs, issued or made by phase 0, whatever other turns fall between them, the control
loop's phases among them: the second answers 1 if and only if a callback ran in between (an inference the spec marks as
its own, from the source's sentence). -/
def Obligations.TakeReportsWhetherACallbackRan : Prop :=
  ∀ (as : List Turn) (s t : State) (es : List Entry),
    s.cell = some false → (∀ a ∈ as, a ≠ .reset) → record as s = some (es, t) → (∀ e ∈ es, e.isTake = false) →
    t.halted = false →
    exec .take t = .next { t with cell := some false, report := .doneWith (es.any Entry.ranCallback) } ∧
    (t.phase = 0 → t.design = .edge →
      step (t.offer .seqStep) =
        .next { t with cell := some false, fresh := es.any Entry.ranCallback, phase := 1,
                       report := .doneWith (es.any Entry.ranCallback) })

/-- R170 (an inference the spec marks as its own) under the weak fairness of R165 (b): a latched, unmasked edge is
followed by its callback after finitely many boundaries, unless the block halts or is reset first. -/
def Obligations.FairRunsDeliverPendingEdges : Prop :=
  ∀ (turns : Nat → Turn) (states : Nat → State) (n : Nat),
    IsRun turns states → WeaklyFair turns states → (states n).pending = true → (states n).unmask = true →
    ∃ m, n ≤ m ∧ (turns m = .reset ∨ (states m).halted = true ∨
      (turns m = .callback ∧ (states m).deliverable = true ∧
        ((states m).cell ≠ none → (states (m + 1)).cell = some true ∧ (states (m + 1)).pending = false)))

/-- R193's hazard, with P3 of 95_test_vectors.md. Where an edge is pending and unmasked before the cell exists, the
callback first halts with cause 1, CELL_INIT first saves the press. Where the detector is armed and IRQ_UNMASK comes
before CELL_INIT: an edge and its callback before CELL_INIT halt the block; with no edge before it every word is done;
with an edge before it and the callback after it the press is reported. -/
def Obligations.UnmaskBeforeInitAdmitsBothRuns : Prop :=
  ∀ s : State, s.halted = false → s.cell = none →
    (s.pending = true → s.unmask = true →
      (∃ es t, record [.callback, .cmd 0x5000] s = some (es, t) ∧ t.halted = true ∧ t.cause = 1 ∧ t.cell = none ∧
        t.pending = true ∧ t.report = .ignored) ∧
      (∃ es t, record [.cmd 0x5000, .callback, .cmd 0x8000] s = some (es, t) ∧ t.halted = false ∧
        t.report = .doneWith true ∧ t.pending = false)) ∧
    (s.srcSel = true → s.edgeEn = true → s.line = false → s.pending = false →
      (∃ es t, record [.cmd 0x6000, .lineSet true, .callback, .cmd 0x5000] s = some (es, t) ∧
        es.map (fun e => e.after.report) = [.done, .idle, .idle, .ignored] ∧ t.halted = true ∧ t.cause = 1 ∧
        t.cell = none ∧ t.pending = true) ∧
      (∃ es t, record [.cmd 0x6000, .cmd 0x5000, .cmd 0x8000] s = some (es, t) ∧
        es.map (fun e => e.after.report) = [.done, .done, .doneWith false] ∧ t.halted = false ∧
        t.cell = some false) ∧
      (∃ es t, record [.cmd 0x6000, .lineSet true, .cmd 0x5000, .callback, .cmd 0x8000] s = some (es, t) ∧
        es.map (fun e => e.after.report) = [.done, .idle, .done, .idle, .doneWith true] ∧ t.halted = false ∧
        t.pending = false))

/-- R189: the words of INIT.P, in its order, and what they leave (the order is the spec's own decision D22). -/
def Obligations.InitPBootsForPolling : Prop :=
  ∀ s : State, s.halted = false → s.periphTaken = false →
    issuing initP = [.cmd 0x1000, .cmd 0x2000, .cmd 0x9000, .cmd 0x9001, .cmd 0x9002, .cmd 0x9003, .cmd 0x9004,
      .cmd 0x9005, .cmd 0x9006, .cmd 0x9007] ∧
    ∃ es, record (issuing initP) s =
      some (es, { s with periphTaken := true, inCfg := true, outCfg := 0b1111_1111, report := .done })

/-- R190: the four words INIT.E adds after INIT.P, and what the whole leaves when no other turn falls between. -/
def Obligations.InitEBootsForTheEdgeDesign : Prop :=
  ∀ s : State, s.halted = false → s.periphTaken = false → s.cell = none →
    issuing initE = issuing initP ++ [.cmd 0x3000, .cmd 0x4000, .cmd 0x5000, .cmd 0x6000] ∧
    ∃ es, record (issuing initE) s =
      some (es, { s with periphTaken := true, inCfg := true, outCfg := 0b1111_1111, srcSel := true, edgeEn := true,
                         cell := some false, unmask := true, report := .done })
end

