-- ==== Sys2Proof/Laws/Decode.lean ====
section
/-!
SUPPORT. What the decoder can answer, and the fields of a word.
-/

namespace Sys2Proof

/-- A word is its three fields, the opcode first (R61). -/
theorem word_eq_fields (w : Word) :
    w = (opcField w ++ (rsvField w ++ immField w) : BitVec (4 + (4 + 8))) := by
  apply BitVec.eq_of_getLsbD_eq
  intro i hi
  simp only [opcField, rsvField, immField, BitVec.getLsbD_append, BitVec.getLsbD_extractLsb']
  by_cases h8 : i < 8
  · simp [h8, show i < 4 + 8 by omega]
  · by_cases h12 : i < 12
    · simp [h8, show i < 4 + 8 by omega, show i - 8 < 4 by omega, show 8 + (i - 8) = i by omega]
    · simp [show ¬ i < 4 + 8 by omega, show i - (4 + 8) < 4 by omega, show 12 + (i - (4 + 8)) = i by omega]

/-- Two words are equal if their fields are. -/
theorem word_ext {w v : Word} (ho : opcField w = opcField v) (hr : rsvField w = rsvField v)
    (hi : immField w = immField v) : w = v := by
  rw [word_eq_fields w, word_eq_fields v, ho, hr, hi]

/-- A field of a conjunction of words, for masks. -/
theorem field_and (w v : Word) (lo n : Nat) :
    (w &&& v).extractLsb' lo n = w.extractLsb' lo n &&& v.extractLsb' lo n := by
  apply BitVec.eq_of_getLsbD_eq
  intro i hi
  simp [hi]

/-- A field of a disjunction of words, for words put together from an opcode and an operand. -/
theorem field_or (w v : Word) (lo n : Nat) :
    (w ||| v).extractLsb' lo n = w.extractLsb' lo n ||| v.extractLsb' lo n := by
  apply BitVec.eq_of_getLsbD_eq
  intro i hi
  simp [hi]

/-- If a format Z word decodes, nothing but the opcode is set and the instruction is the row's (R62). -/
theorem decodeZ_ok {i j : Instr} {w : Word} (h : decodeZ i w = .ok j) :
    rsvField w = 0 ∧ immField w = 0 ∧ j = i := by
  unfold decodeZ at h
  split at h
  · cases h
  · split at h
    · cases h
    · next h1 h2 => exact ⟨by simpa using h1, by simpa using h2, by injection h with h; exact h.symm⟩

/-- If a format I word decodes, `rsv` is clear and the instruction carries `sext_8(imm8)` (R63). -/
theorem decodeI_ok {mk : Int → Instr} {j : Instr} {w : Word} (h : decodeI mk w = .ok j) :
    rsvField w = 0 ∧ j = mk (immField w).toInt := by
  unfold decodeI at h
  split at h
  · cases h
  · next h1 => exact ⟨by simpa using h1, by injection h with h; exact h.symm⟩

/-- Every operand of eight bits fits (R63). -/
@[simp] theorem positionFits_toInt (v : BitVec 8) : positionFits v.toInt = true := by
  have h1 := BitVec.toInt_lt (x := v)
  have h2 := BitVec.le_toInt (x := v)
  simp only [positionFits, Bool.and_eq_true, decide_eq_true_eq]
  constructor <;> omega

/-- A position that fits is read back from its eight bits (R63). -/
theorem toInt_ofInt_of_fits {p : Int} (h : positionFits p = true) : (BitVec.ofInt 8 p).toInt = p := by
  simp only [positionFits, Bool.and_eq_true, decide_eq_true_eq] at h
  rw [BitVec.toInt_ofInt]
  exact Int.bmod_eq_of_le (by omega) (by omega)

/-- What a legal word is: `rsv` clear, the instruction's opcode and operand bits, and the instruction well formed
(R61 to R65). -/
theorem decode_ok {w : Word} {i : Instr} (h : decode w = .ok i) :
    rsvField w = 0 ∧ opcField w = i.opcode ∧ immField w = i.imm8 ∧ i.wf = true := by
  unfold decode at h
  split at h
  case h_13 => cases h
  all_goals first
    | (obtain ⟨h1, h2, rfl⟩ := decodeZ_ok h
       exact ⟨h1, by assumption, h2, rfl⟩)
    | (obtain ⟨h1, rfl⟩ := decodeI_ok h
       exact ⟨h1, by assumption, by simp [Instr.imm8], by simp [Instr.wf]⟩)

end Sys2Proof
end

