-- ==== Sys2Proof/Laws/State.lean ====
section
/-!
SUPPORT. What each named update of the state does to each field.
-/

namespace Sys2Proof.Machine

/-! `State.reporting` -/

@[simp] theorem State.reporting_handled (s : State) (r : Report) : (s.reporting r).handled = s.handled := rfl
@[simp] theorem State.reporting_cell (s : State) (r : Report) : (s.reporting r).cell = s.cell := rfl
@[simp] theorem State.reporting_pending (s : State) (r : Report) : (s.reporting r).pending = s.pending := rfl
@[simp] theorem State.reporting_srcSel (s : State) (r : Report) : (s.reporting r).srcSel = s.srcSel := rfl
@[simp] theorem State.reporting_edgeEn (s : State) (r : Report) : (s.reporting r).edgeEn = s.edgeEn := rfl
@[simp] theorem State.reporting_unmask (s : State) (r : Report) : (s.reporting r).unmask = s.unmask := rfl
@[simp] theorem State.reporting_inCfg (s : State) (r : Report) : (s.reporting r).inCfg = s.inCfg := rfl
@[simp] theorem State.reporting_line (s : State) (r : Report) : (s.reporting r).line = s.line := rfl
@[simp] theorem State.reporting_led (s : State) (r : Report) : (s.reporting r).led = s.led := rfl
@[simp] theorem State.reporting_outCfg (s : State) (r : Report) : (s.reporting r).outCfg = s.outCfg := rfl
@[simp] theorem State.reporting_periphTaken (s : State) (r : Report) : (s.reporting r).periphTaken = s.periphTaken := rfl
@[simp] theorem State.reporting_halted (s : State) (r : Report) : (s.reporting r).halted = s.halted := rfl
@[simp] theorem State.reporting_cause (s : State) (r : Report) : (s.reporting r).cause = s.cause := rfl
@[simp] theorem State.reporting_pos (s : State) (r : Report) : (s.reporting r).pos = s.pos := rfl
@[simp] theorem State.reporting_dir (s : State) (r : Report) : (s.reporting r).dir = s.dir := rfl
@[simp] theorem State.reporting_fresh (s : State) (r : Report) : (s.reporting r).fresh = s.fresh := rfl
@[simp] theorem State.reporting_nxt (s : State) (r : Report) : (s.reporting r).nxt = s.nxt := rfl
@[simp] theorem State.reporting_phase (s : State) (r : Report) : (s.reporting r).phase = s.phase := rfl
@[simp] theorem State.reporting_design (s : State) (r : Report) : (s.reporting r).design = s.design := rfl
@[simp] theorem State.reporting_draws (s : State) (r : Report) : (s.reporting r).draws = s.draws := rfl
@[simp] theorem State.reporting_report (s : State) (r : Report) : (s.reporting r).report = r := rfl
@[simp] theorem State.reporting_inputs (s : State) (r : Report) : (s.reporting r).inputs = s.inputs := rfl

/-! `raiseFatal` -/

@[simp] theorem State.raiseFatal_handled (c : Fatal) (s : State) : (raiseFatal c s).handled = s.handled := rfl
@[simp] theorem State.raiseFatal_cell (c : Fatal) (s : State) : (raiseFatal c s).cell = s.cell := rfl
@[simp] theorem State.raiseFatal_pending (c : Fatal) (s : State) : (raiseFatal c s).pending = s.pending := rfl
@[simp] theorem State.raiseFatal_srcSel (c : Fatal) (s : State) : (raiseFatal c s).srcSel = s.srcSel := rfl
@[simp] theorem State.raiseFatal_edgeEn (c : Fatal) (s : State) : (raiseFatal c s).edgeEn = s.edgeEn := rfl
@[simp] theorem State.raiseFatal_unmask (c : Fatal) (s : State) : (raiseFatal c s).unmask = s.unmask := rfl
@[simp] theorem State.raiseFatal_inCfg (c : Fatal) (s : State) : (raiseFatal c s).inCfg = s.inCfg := rfl
@[simp] theorem State.raiseFatal_line (c : Fatal) (s : State) : (raiseFatal c s).line = s.line := rfl
@[simp] theorem State.raiseFatal_led (c : Fatal) (s : State) : (raiseFatal c s).led = s.led := rfl
@[simp] theorem State.raiseFatal_outCfg (c : Fatal) (s : State) : (raiseFatal c s).outCfg = s.outCfg := rfl
@[simp] theorem State.raiseFatal_periphTaken (c : Fatal) (s : State) : (raiseFatal c s).periphTaken = s.periphTaken := rfl
@[simp] theorem State.raiseFatal_halted (c : Fatal) (s : State) : (raiseFatal c s).halted = true := rfl
@[simp] theorem State.raiseFatal_cause (c : Fatal) (s : State) : (raiseFatal c s).cause = c.code := rfl
@[simp] theorem State.raiseFatal_pos (c : Fatal) (s : State) : (raiseFatal c s).pos = s.pos := rfl
@[simp] theorem State.raiseFatal_dir (c : Fatal) (s : State) : (raiseFatal c s).dir = s.dir := rfl
@[simp] theorem State.raiseFatal_fresh (c : Fatal) (s : State) : (raiseFatal c s).fresh = s.fresh := rfl
@[simp] theorem State.raiseFatal_nxt (c : Fatal) (s : State) : (raiseFatal c s).nxt = s.nxt := rfl
@[simp] theorem State.raiseFatal_phase (c : Fatal) (s : State) : (raiseFatal c s).phase = s.phase := rfl
@[simp] theorem State.raiseFatal_design (c : Fatal) (s : State) : (raiseFatal c s).design = s.design := rfl
@[simp] theorem State.raiseFatal_draws (c : Fatal) (s : State) : (raiseFatal c s).draws = s.draws := rfl
@[simp] theorem State.raiseFatal_report (c : Fatal) (s : State) : (raiseFatal c s).report = s.report := rfl
@[simp] theorem State.raiseFatal_inputs (c : Fatal) (s : State) : (raiseFatal c s).inputs = s.inputs := rfl

/-! `State.begin` -/

@[simp] theorem State.begin_handled (s : State) : s.begin.handled = s.handled := rfl
@[simp] theorem State.begin_cell (s : State) : s.begin.cell = s.cell := rfl
@[simp] theorem State.begin_pending (s : State) : s.begin.pending = s.pending := rfl
@[simp] theorem State.begin_srcSel (s : State) : s.begin.srcSel = s.srcSel := rfl
@[simp] theorem State.begin_edgeEn (s : State) : s.begin.edgeEn = s.edgeEn := rfl
@[simp] theorem State.begin_unmask (s : State) : s.begin.unmask = s.unmask := rfl
@[simp] theorem State.begin_inCfg (s : State) : s.begin.inCfg = s.inCfg := rfl
@[simp] theorem State.begin_line (s : State) : s.begin.line = s.line := rfl
@[simp] theorem State.begin_led (s : State) : s.begin.led = s.led := rfl
@[simp] theorem State.begin_outCfg (s : State) : s.begin.outCfg = s.outCfg := rfl
@[simp] theorem State.begin_periphTaken (s : State) : s.begin.periphTaken = s.periphTaken := rfl
@[simp] theorem State.begin_halted (s : State) : s.begin.halted = s.halted := rfl
@[simp] theorem State.begin_cause (s : State) : s.begin.cause = s.cause := rfl
@[simp] theorem State.begin_pos (s : State) : s.begin.pos = s.pos := rfl
@[simp] theorem State.begin_dir (s : State) : s.begin.dir = s.dir := rfl
@[simp] theorem State.begin_fresh (s : State) : s.begin.fresh = s.fresh := rfl
@[simp] theorem State.begin_nxt (s : State) : s.begin.nxt = s.nxt := rfl
@[simp] theorem State.begin_phase (s : State) : s.begin.phase = s.phase := rfl
@[simp] theorem State.begin_design (s : State) : s.begin.design = s.design := rfl
@[simp] theorem State.begin_draws (s : State) : s.begin.draws = s.draws := rfl
@[simp] theorem State.begin_report (s : State) : s.begin.report = .idle := rfl
@[simp] theorem State.begin_inputs (s : State) : s.begin.inputs = s.inputs.tail := rfl

/-! `State.offer` -/

@[simp] theorem State.offer_handled (s : State) (a : Turn) : (s.offer a).handled = s.handled := rfl
@[simp] theorem State.offer_cell (s : State) (a : Turn) : (s.offer a).cell = s.cell := rfl
@[simp] theorem State.offer_pending (s : State) (a : Turn) : (s.offer a).pending = s.pending := rfl
@[simp] theorem State.offer_srcSel (s : State) (a : Turn) : (s.offer a).srcSel = s.srcSel := rfl
@[simp] theorem State.offer_edgeEn (s : State) (a : Turn) : (s.offer a).edgeEn = s.edgeEn := rfl
@[simp] theorem State.offer_unmask (s : State) (a : Turn) : (s.offer a).unmask = s.unmask := rfl
@[simp] theorem State.offer_inCfg (s : State) (a : Turn) : (s.offer a).inCfg = s.inCfg := rfl
@[simp] theorem State.offer_line (s : State) (a : Turn) : (s.offer a).line = s.line := rfl
@[simp] theorem State.offer_led (s : State) (a : Turn) : (s.offer a).led = s.led := rfl
@[simp] theorem State.offer_outCfg (s : State) (a : Turn) : (s.offer a).outCfg = s.outCfg := rfl
@[simp] theorem State.offer_periphTaken (s : State) (a : Turn) : (s.offer a).periphTaken = s.periphTaken := rfl
@[simp] theorem State.offer_halted (s : State) (a : Turn) : (s.offer a).halted = s.halted := rfl
@[simp] theorem State.offer_cause (s : State) (a : Turn) : (s.offer a).cause = s.cause := rfl
@[simp] theorem State.offer_pos (s : State) (a : Turn) : (s.offer a).pos = s.pos := rfl
@[simp] theorem State.offer_dir (s : State) (a : Turn) : (s.offer a).dir = s.dir := rfl
@[simp] theorem State.offer_fresh (s : State) (a : Turn) : (s.offer a).fresh = s.fresh := rfl
@[simp] theorem State.offer_nxt (s : State) (a : Turn) : (s.offer a).nxt = s.nxt := rfl
@[simp] theorem State.offer_phase (s : State) (a : Turn) : (s.offer a).phase = s.phase := rfl
@[simp] theorem State.offer_design (s : State) (a : Turn) : (s.offer a).design = s.design := rfl
@[simp] theorem State.offer_draws (s : State) (a : Turn) : (s.offer a).draws = s.draws := rfl
@[simp] theorem State.offer_report (s : State) (a : Turn) : (s.offer a).report = s.report := rfl
@[simp] theorem State.offer_inputs (s : State) (a : Turn) : (s.offer a).inputs = a :: s.inputs := rfl

/-! `hostReset` -/

@[simp] theorem State.hostReset_handled (s : State) : (hostReset s).handled = false := rfl
@[simp] theorem State.hostReset_cell (s : State) : (hostReset s).cell = none := rfl
@[simp] theorem State.hostReset_pending (s : State) : (hostReset s).pending = false := rfl
@[simp] theorem State.hostReset_srcSel (s : State) : (hostReset s).srcSel = false := rfl
@[simp] theorem State.hostReset_edgeEn (s : State) : (hostReset s).edgeEn = false := rfl
@[simp] theorem State.hostReset_unmask (s : State) : (hostReset s).unmask = false := rfl
@[simp] theorem State.hostReset_inCfg (s : State) : (hostReset s).inCfg = false := rfl
@[simp] theorem State.hostReset_line (s : State) : (hostReset s).line = s.line := rfl
@[simp] theorem State.hostReset_led (s : State) : (hostReset s).led = 0 := rfl
@[simp] theorem State.hostReset_outCfg (s : State) : (hostReset s).outCfg = 0 := rfl
@[simp] theorem State.hostReset_periphTaken (s : State) : (hostReset s).periphTaken = false := rfl
@[simp] theorem State.hostReset_halted (s : State) : (hostReset s).halted = false := rfl
@[simp] theorem State.hostReset_cause (s : State) : (hostReset s).cause = 0 := rfl
@[simp] theorem State.hostReset_pos (s : State) : (hostReset s).pos = 0 := rfl
@[simp] theorem State.hostReset_dir (s : State) : (hostReset s).dir = .plus := rfl
@[simp] theorem State.hostReset_fresh (s : State) : (hostReset s).fresh = false := rfl
@[simp] theorem State.hostReset_nxt (s : State) : (hostReset s).nxt = 0 := rfl
@[simp] theorem State.hostReset_phase (s : State) : (hostReset s).phase = 0 := rfl
@[simp] theorem State.hostReset_design (s : State) : (hostReset s).design = s.design := rfl
@[simp] theorem State.hostReset_draws (s : State) : (hostReset s).draws = s.draws := rfl
@[simp] theorem State.hostReset_report (s : State) : (hostReset s).report = .idle := rfl
@[simp] theorem State.hostReset_inputs (s : State) : (hostReset s).inputs = s.inputs := rfl

end Sys2Proof.Machine
end

