-- ==== Sys2Proof/Laws/Interrupt.lean ====
section
/-!
SUPPORT. What the detector, the environment's step and the callback can do, said once.
-/

namespace Sys2Proof.Machine

/-- The detector writes `pending` alone, and only to 1 (R91). -/
theorem latchEdge_eq (s : State) : latchEdge s = { s with pending := s.pending || s.armed } := by
  cases h : s.armed <;> simp [latchEdge, h]

/-- The environment's step writes `line`, and `pending` on a latched rising edge (R90, R91). -/
theorem lineSet_eq (v : Bool) (s : State) :
    lineSet v s = { s with line := v, pending := s.pending || (risingEdge s.line v && s.armed) } := by
  cases h : risingEdge s.line v <;> simp [lineSet, h, latchEdge_eq, State.armed]

/-- A spurious edge writes `pending` alone, and only to 1 (R92). -/
theorem spuriousEdge_eq (s : State) :
    spuriousEdge s = { s with pending := s.pending || s.mayLatchSpurious } := by
  cases h : s.mayLatchSpurious <;> simp [spuriousEdge, h]

/-- What the interrupt agent's turn can do: nothing, a fatal error, or the callback's two writes (R165, R166). -/
theorem deliver_cases (s : State) :
    (s.deliverable = false ∧ deliver s = s) ∨
    (s.deliverable = true ∧ s.cell = none ∧ deliver s = raiseFatal .useBeforeInit s) ∨
    (s.deliverable = true ∧ s.cell ≠ none ∧ deliver s = { s with pending := false, cell := some true }) := by
  cases h : s.deliverable
  · exact .inl ⟨rfl, by simp [deliver, h]⟩
  · cases hc : s.cell
    · exact .inr (.inl ⟨rfl, rfl, by simp [deliver, h, callback, hc]⟩)
    · exact .inr (.inr ⟨rfl, by simp, by simp [deliver, h, callback, hc]⟩)

/-- Delivery is enabled only in a running block with an unmasked pending edge (R165). -/
theorem deliverable_iff (s : State) :
    s.deliverable = true ↔ s.pending = true ∧ s.unmask = true ∧ s.halted = false := by
  simp [State.deliverable, and_assoc]

end Sys2Proof.Machine
end

