-- ==== Sys2Proof/Laws/Operands.lean ====
section
/-!
SUPPORT. The cyclic indexer, the selector and the ring's arithmetic.
-/

namespace Sys2Proof.Machine

/-- `line_at(p)` as a number is the integer remainder (R110). -/
theorem lineAt_toNat (p : Int) : (((lineAt p).toNat : Nat) : Int) = p % 8 := by
  have h0 := Int.emod_nonneg p (show (8 : Int) ≠ 0 by decide)
  have h1 := Int.emod_lt_of_pos p (show (0 : Int) < 8 by decide)
  simp only [lineAt, BitVec.toNat_ofNat]
  omega

/-- A line's own number selects it (R45). -/
@[simp] theorem lineAt_line (k : Line) : lineAt (k.toNat : Int) = k := by
  apply BitVec.eq_of_toNat_eq
  have h := lineAt_toNat (k.toNat : Int)
  have := k.isLt
  omega

/-- Two positions select one line if and only if their remainders agree. -/
theorem lineAt_eq_iff (p : Int) (k : Line) : lineAt p = k ↔ (k.toNat : Int) = p % 8 := by
  have h := lineAt_toNat p
  constructor
  · rintro rfl; exact h
  · intro hk; apply BitVec.eq_of_toNat_eq; omega

/-- Reading a bus after a write to one line: that line has the value written, the others theirs (R111). -/
@[simp] theorem getLine_putLine (v : Ring) (k j : Line) (b : Bool) :
    getLine (putLine v k b) j = if j = k then b else getLine v j := by
  have hj := j.isLt
  have hne : j = k ↔ k.toNat = j.toNat := ⟨fun h => by rw [h], fun h => BitVec.eq_of_toNat_eq h.symm⟩
  cases b <;> by_cases h : k.toNat = j.toNat <;>
    simp [getLine, putLine, hne, h, BitVec.getLsbD_twoPow] <;> omega

/-- One line of a disjunction of buses. -/
@[simp] theorem getLine_or (v w : Ring) (k : Line) : getLine (v ||| w) k = (getLine v k || getLine w k) := by
  simp [getLine]

/-- One line of a conjunction of buses. -/
@[simp] theorem getLine_and (v w : Ring) (k : Line) : getLine (v &&& w) k = (getLine v k && getLine w k) := by
  simp [getLine]

/-- One line of a complemented bus: every line number is below 8. -/
@[simp] theorem getLine_not (v : Ring) (k : Line) : getLine (~~~v) k = !getLine v k := by
  have hk : k.toNat < 8 := k.isLt
  simp [getLine, hk]

/-- No line of the dark ring is lit. -/
@[simp] theorem getLine_zero (k : Line) : getLine 0#8 k = false := by
  simp [getLine]

/-- Two buses with the same lines are equal. -/
theorem ring_ext {v w : Ring} (h : ∀ k : Line, getLine v k = getLine w k) : v = w := by
  apply BitVec.eq_of_getLsbD_eq
  intro i hi
  have hk := h (BitVec.ofNat 3 i)
  have : i % 2 ^ 3 = i := Nat.mod_eq_of_lt hi
  simpa only [getLine, BitVec.toNat_ofNat, this] using hk

/-- A hop moves (R146): used wherever the two LED writes of a tick must be of different lines. -/
theorem nextPos_toNat (pos : Line) (dir : Direction) :
    ((nextPos pos dir).toNat : Int) = ((pos.toNat : Int) + dir.toInt) % 8 := lineAt_toNat _

end Sys2Proof.Machine
end

