-- ==== Sys2Proof/Laws/Ops.lean ====
section
/-!
SUPPORT. What each shared operation can do, said once.
-/

namespace Sys2Proof.Machine

/-- A running block performs the operation. -/
@[simp] theorem whenRunning_running {s : State} (k : Result) (h : s.halted = false) : whenRunning s k = k := by
  simp [whenRunning, h]

/-- A halted block ignores it (R74). -/
@[simp] theorem whenRunning_halted {s : State} (k : Result) (h : s.halted = true) :
    whenRunning s k = .next (s.reporting .ignored) := by
  simp [whenRunning, h]

/-- If an operation of a possibly halted block answers a next state, it was ignored or performed. -/
theorem whenRunning_next {s t : State} {k : Result} (h : whenRunning s k = .next t) :
    (s.halted = true ∧ t = s.reporting .ignored) ∨ (s.halted = false ∧ k = .next t) := by
  unfold whenRunning at h
  split at h
  · next hh => exact .inl ⟨hh, by injection h with h; exact h.symm⟩
  · next hh => exact .inr ⟨by simpa using hh, h⟩

/-- A read of the configured line is its level, and changes nothing (R42, R43). -/
@[simp] theorem readButton_configured {s : State} (h : s.inCfg = true) : readButton s = (s.line, s) := by
  simp [readButton, h]

/-- A read of the floating line is a fresh free value (R42). -/
@[simp] theorem readButton_floating {s : State} (h : s.inCfg = false) :
    readButton s = (Config.floatingLevel s.draws, { s with draws := s.draws + 1 }) := by
  simp [readButton, h]

/-- What a read of the line can do: some level, and no change but the draw counter's; none at all if configured. -/
theorem readButton_spec (s : State) :
    ∃ (level : Bool) (n : Nat), readButton s = (level, { s with draws := n }) ∧
      (s.inCfg = true → level = s.line ∧ n = s.draws) := by
  by_cases h : s.inCfg = true
  · exact ⟨s.line, s.draws, readButton_configured h, fun _ => ⟨rfl, rfl⟩⟩
  · exact ⟨_, _, readButton_floating (by simpa using h), fun hc => absurd hc h⟩

/-- The two forms of the debounce machine's next state agree (R80). -/
@[simp] theorem debounceNext_eq (level handled : Bool) : debounceNext level handled = level := by
  cases level <;> cases handled <;> rfl

/-- A write of a configured line (R44). -/
@[simp] theorem writeLed_configured {s : State} {k : Line} (b : Bool) (h : getLine s.outCfg k = true) :
    writeLed k b s = .next { s with led := putLine s.led k b, report := .done } := by
  simp [writeLed, h, done, State.reporting]

/-- A write of an unconfigured line (R115). -/
@[simp] theorem writeLed_unconfigured {s : State} {k : Line} (b : Bool) (h : getLine s.outCfg k = false) :
    writeLed k b s = .refused (.unconfiguredLine k) := by
  simp [writeLed, h]

/-- If a write answers a next state, the line was configured and its latch alone was written. -/
theorem writeLed_next {s t : State} {k : Line} {b : Bool} (h : writeLed k b s = .next t) :
    getLine s.outCfg k = true ∧ t = { s with led := putLine s.led k b, report := .done } := by
  cases hc : getLine s.outCfg k
  · simp [hc] at h
  · rw [writeLed_configured b hc] at h
    injection h with h
    exact ⟨rfl, h.symm⟩

/-- If the rest of a step follows an operation and answers a next state, the operation did; the rest was performed
unless it halted (R150). -/
theorem thenUnlessHalted_next {o : Result} {f : State → State} {t : State} (h : thenUnlessHalted o f = .next t) :
    ∃ u, o = .next u ∧ ((u.halted = true ∧ t = u) ∨ (u.halted = false ∧ t = f u)) := by
  cases o with
  | next u =>
    refine ⟨u, rfl, ?_⟩
    cases hu : u.halted <;> simp [thenUnlessHalted, hu] at h
    · exact .inr ⟨rfl, h.symm⟩
    · exact .inl ⟨rfl, h.symm⟩
  | fault r => cases r
  | refused r => simp [thenUnlessHalted] at h

/-- The rest of a step after an operation that left the block running. -/
@[simp] theorem thenUnlessHalted_running {f : State → State} {u : State} (h : u.halted = false) :
    thenUnlessHalted (.next u) f = .next (f u) := by
  simp [thenUnlessHalted, h]

/-- An operation that halted ends the step (R150). -/
@[simp] theorem thenUnlessHalted_halted {f : State → State} {u : State} (h : u.halted = true) :
    thenUnlessHalted (.next u) f = .next u := by
  simp [thenUnlessHalted, h]

/-- A refused operation refuses the step (R150). -/
@[simp] theorem thenUnlessHalted_refused (f : State → State) (r : Refusal) :
    thenUnlessHalted (.refused r) f = .refused r := rfl

end Sys2Proof.Machine
end

