-- ==== Sys2Proof/Laws/PerInstr.lean ====
section
/-!
SUPPORT. Per instruction: the fields of its word are its opcode, 0000 and its operand bits (R61).
-/

namespace Sys2Proof.Laws

/-- The three fields of `encode i` (R61). -/
def EncodeFields.Statement (i : Instr) : Prop :=
  opcField (encode i) = i.opcode ∧ rsvField (encode i) = 0 ∧ immField (encode i) = i.imm8

/-- A word made of three fields has those fields. -/
theorem fields_of_append (o : BitVec 4) (m : BitVec 8) :
    opcField (o ++ (0#4 ++ m) : BitVec (4 + (4 + 8))) = o ∧ rsvField (o ++ (0#4 ++ m) : BitVec (4 + (4 + 8))) = 0 ∧
    immField (o ++ (0#4 ++ m) : BitVec (4 + (4 + 8))) = m := by
  refine ⟨?_, ?_, ?_⟩ <;> apply BitVec.eq_of_getLsbD_eq <;> intro i hi <;>
    simp only [opcField, rsvField, immField, BitVec.getLsbD_append, BitVec.getLsbD_extractLsb']
  · simp [hi, show ¬ 12 + i < 4 + 8 by omega, show 12 + i - (4 + 8) = i by omega]
  · simp [show ¬ 8 + i < 8 by omega, show 8 + i < 4 + 8 by omega]
  · simp [hi, show i < 4 + 8 by omega]

theorem EncodeFields.periphTake : EncodeFields.Statement .periphTake := fields_of_append _ _
theorem EncodeFields.btnCfgIn : EncodeFields.Statement .btnCfgIn := fields_of_append _ _
theorem EncodeFields.btnSelIrq : EncodeFields.Statement .btnSelIrq := fields_of_append _ _
theorem EncodeFields.btnEdgeEn : EncodeFields.Statement .btnEdgeEn := fields_of_append _ _
theorem EncodeFields.cellInit : EncodeFields.Statement .cellInit := fields_of_append _ _
theorem EncodeFields.irqUnmask : EncodeFields.Statement .irqUnmask := fields_of_append _ _
theorem EncodeFields.poll : EncodeFields.Statement .poll := fields_of_append _ _
theorem EncodeFields.take : EncodeFields.Statement .take := fields_of_append _ _
theorem EncodeFields.ledCfgOut (p : Int) : EncodeFields.Statement (.ledCfgOut p) := fields_of_append _ _
theorem EncodeFields.ledAssert (p : Int) : EncodeFields.Statement (.ledAssert p) := fields_of_append _ _
theorem EncodeFields.ledDeassert (p : Int) : EncodeFields.Statement (.ledDeassert p) := fields_of_append _ _
theorem EncodeFields.delay : EncodeFields.Statement .delay := fields_of_append _ _

end Sys2Proof.Laws
end

