-- ==== Sys2Proof/Laws/Step.lean ====
section
/-!
SUPPORT. What a step is: the turn at the head of `inputs`, taken with the ports idle.
-/

namespace Sys2Proof.Machine

/-- The state in which an offered turn is taken. -/
theorem begin_offer (s : State) (a : Turn) : (s.offer a).begin = { s with report := .idle } := rfl

/-- A step with a turn offered is that turn, the ports idle (R50, R69). -/
theorem step_offer (s : State) (a : Turn) : step (s.offer a) = act a { s with report := .idle } := rfl

/-- A step whose inputs begin with a turn is that turn offered to the rest. -/
theorem step_cons {s : State} {a : Turn} {rest : List Turn} (h : s.inputs = a :: rest) :
    step s = act a { s with inputs := rest, report := .idle } := by
  simp [step, takeTurn, h, State.begin]

/-- A step with no turn to come. -/
theorem step_nil {s : State} (h : s.inputs = []) : step s = .next s.begin := by
  simp [step, takeTurn, h]

/-- Every step is either idle or some turn offered to the state with the rest of the turns. -/
theorem step_cases (s : State) :
    step s = .next s.begin ∨ ∃ (a : Turn) (u : State), u = { s with inputs := s.inputs.tail } ∧ step s = step (u.offer a) := by
  cases h : s.inputs with
  | nil => exact .inl (step_nil h)
  | cons a rest => exact .inr ⟨a, _, rfl, by rw [step_cons h, step_offer]; simp⟩

/-- A word is issued to a running block (R65). -/
theorem issue_ok {s : State} {w : Word} {i : Instr} (h : decode w = .ok i) (hr : s.halted = false) :
    issue w s = exec i s := by
  simp [issue, hr, h]

/-- A word issued to a halted block is ignored (R74). -/
theorem issue_halted {s : State} (w : Word) (h : s.halted = true) : issue w s = .next (s.reporting .ignored) :=
  whenRunning_halted _ h

/-- Every meaning ignores its instruction in a halted block (R74). -/
theorem exec_halted {s : State} (i : Instr) (h : s.halted = true) : exec i s = .next (s.reporting .ignored) := by
  cases i <;> exact whenRunning_halted _ h

/-- What an operation can do to a running block, all twelve said once (R81, R82, R94 to R98, R112 to R114, R125,
R127). -/
theorem exec_next {i : Instr} {s t : State} (hr : s.halted = false) (h : exec i s = .next t) :
    (i = .periphTake ∧ s.periphTaken = false ∧ t = { s with periphTaken := true, report := .done }) ∨
    (i = .btnCfgIn ∧ t = { s with inCfg := true, report := .done }) ∨
    (i = .btnSelIrq ∧ t = { s with srcSel := true, report := .done }) ∨
    (i = .btnEdgeEn ∧ t = { s with edgeEn := true, report := .done }) ∨
    (i = .cellInit ∧ s.cell = none ∧ t = { s with cell := some false, report := .done }) ∨
    (i = .irqUnmask ∧ t = { s with unmask := true, report := .done }) ∨
    (i = .poll ∧ ∃ level n, (s.inCfg = true → level = s.line ∧ n = s.draws) ∧
      t = { s with handled := level, draws := n, report := .doneWith (level && !s.handled) }) ∨
    (i = .take ∧ ∃ b, s.cell = some b ∧ t = { s with cell := some false, report := .doneWith b }) ∨
    (∃ p, i = .ledCfgOut p ∧ t = { s with outCfg := putLine s.outCfg (lineAt p) true, report := .done }) ∨
    (∃ p b, (i = .ledAssert p ∧ b = true ∨ i = .ledDeassert p ∧ b = false) ∧ getLine s.outCfg (lineAt p) = true ∧
      t = { s with led := putLine s.led (lineAt p) b, report := .done }) ∨
    (i = .delay ∧ t = { s with report := .done }) ∨
    (∃ c, t = { s with halted := true, cause := c.code, report := .halt c } ∧
      ((i = .take ∧ s.cell = none ∧ c = .useBeforeInit) ∨ (i = .cellInit ∧ s.cell ≠ none ∧ c = .doubleInit) ∨
        (i = .periphTake ∧ s.periphTaken = true ∧ c = .periphTaken))) := by
  cases i <;> simp only [exec, execPeriphTake, execBtnCfgIn, execBtnSelIrq, execBtnEdgeEn, execCellInit, execIrqUnmask,
    execPoll, execTake, execLedCfgOut, execLedAssert, execLedDeassert, execDelay, whenRunning_running _ hr] at h
  case periphTake =>
    split at h <;> injection h with h
    · next hp => simp [← h, hp, raiseFatal, State.reporting]
    · next hp => simp [← h, hp, State.reporting]
  case cellInit =>
    split at h <;> injection h with h
    · next hp => simp [← h, hp, raiseFatal, State.reporting]
    · next hp => simp [← h, hp, State.reporting]
  case take =>
    split at h <;> injection h with h
    · next hp => simp [← h, hp, raiseFatal, State.reporting]
    · next hp => simp [← h, hp, State.reporting]
  case poll =>
    obtain ⟨level, n, hb, hc⟩ := readButton_spec s
    rw [hb] at h
    injection h with h
    simp only [reduceCtorEq, false_and, false_or, true_and, or_false, exists_false, and_false]
    exact ⟨level, n, hc, by rw [← h]; simp [State.reporting, debounceResp]⟩
  case ledAssert p =>
    obtain ⟨hc, rfl⟩ := writeLed_next h
    simp [hc]
  case ledDeassert p =>
    obtain ⟨hc, rfl⟩ := writeLed_next h
    simp [hc]
  all_goals
    injection h with h
    simp [← h, State.reporting]

/-- What a sequencer step can do to a running block: its six phases, and what the query of phase 0 may do (R136 to R142,
R150). -/
theorem seqStep_next {s t : State} (hr : s.halted = false) (h : seqStep s = .next t) :
    (s.phase = 0 ∧ ∃ u, queryButton s = .next u ∧
      ((u.halted = true ∧ t = u) ∨
        (u.halted = false ∧ t = { u with fresh := u.report.response.getD u.fresh, phase := 1 }))) ∨
    (s.phase = 1 ∧ t = { s with dir := if s.fresh then s.dir.neg else s.dir, phase := 2 }) ∨
    (s.phase = 2 ∧ t = { s with nxt := nextPos s.pos s.dir, phase := 3 }) ∨
    (s.phase = 3 ∧ getLine s.outCfg s.nxt = true ∧
      t = { s with led := putLine s.led s.nxt true, phase := 4, report := .done }) ∨
    (s.phase = 4 ∧ getLine s.outCfg s.pos = true ∧
      t = { s with led := putLine s.led s.pos false, pos := s.nxt, phase := 5, report := .done }) ∨
    (s.phase = 5 ∧ t = { s with phase := 0, report := .done }) := by
  unfold seqStep at h
  rw [hr] at h
  simp only [Bool.false_eq_true, if_false] at h
  split at h
  · next hp =>
    obtain ⟨u, hu, hc⟩ := thenUnlessHalted_next h
    exact .inl ⟨hp, u, hu, hc⟩
  · next hp => injection h with h; exact .inr (.inl ⟨hp, h.symm⟩)
  · next hp => injection h with h; exact .inr (.inr (.inl ⟨hp, h.symm⟩))
  · next hp =>
    obtain ⟨u, hu, hc⟩ := thenUnlessHalted_next h
    simp only [execLedAssert, lineAt_line, whenRunning_running _ hr] at hu
    obtain ⟨hk, rfl⟩ := writeLed_next hu
    simp [hp, hk, hr] at hc ⊢
    exact hc
  · next hp =>
    obtain ⟨u, hu, hc⟩ := thenUnlessHalted_next h
    simp only [execLedDeassert, lineAt_line, whenRunning_running _ hr] at hu
    obtain ⟨hk, rfl⟩ := writeLed_next hu
    simp [hp, hk, hr] at hc ⊢
    exact hc
  · next hp =>
    obtain ⟨u, hu, hc⟩ := thenUnlessHalted_next h
    simp only [execDelay, whenRunning_running _ hr] at hu
    injection hu with hu
    subst hu
    simp [hp, hr, State.reporting] at hc ⊢
    exact hc
  · cases h

end Sys2Proof.Machine
end

