-- ==== Sys2Proof/Tests/Slice0.lean ====
section
/-!
SUPPORT. The model's own tests. Expected values are those of spec/95_test_vectors.md and of the rules' examples, or
written out by hand from the encoding tables of 30_encoding.md. Each `witness_<Name>` shows that the hypotheses of
`Obligations.<Name>` can be met together, and each of its clauses reached.
-/

open Sys2Proof Sys2Proof.Machine

namespace Sys2Proof.Tests

/-! ## Well-formedness (R63, R70): the smoke test -/

theorem test_wf_refuses_128 : (Instr.ledCfgOut 128).wf = false ∧ (Instr.ledAssert 128).wf = false ∧
    (Instr.ledDeassert 128).wf = false := by decide

theorem test_wf_refuses_minus_129 : (Instr.ledCfgOut (-129)).wf = false ∧ (Instr.ledAssert (-129)).wf = false ∧
    (Instr.ledDeassert (-129)).wf = false := by decide

theorem test_wf_accepts_the_ends : (Instr.ledCfgOut 127).wf = true ∧ (Instr.ledAssert (-128)).wf = true ∧
    (Instr.ledDeassert 127).wf = true ∧ Instr.delay.wf = true := by decide

/-! ## Decoding: each operation's word, written out from R64 -/

theorem test_decode_periphTake : decode 0b0001_0000_0000_0000#16 = .ok .periphTake := rfl
theorem test_decode_btnCfgIn : decode 0b0010_0000_0000_0000#16 = .ok .btnCfgIn := rfl
theorem test_decode_btnSelIrq : decode 0b0011_0000_0000_0000#16 = .ok .btnSelIrq := rfl
theorem test_decode_btnEdgeEn : decode 0b0100_0000_0000_0000#16 = .ok .btnEdgeEn := rfl
theorem test_decode_cellInit : decode 0b0101_0000_0000_0000#16 = .ok .cellInit := rfl
theorem test_decode_irqUnmask : decode 0b0110_0000_0000_0000#16 = .ok .irqUnmask := rfl
theorem test_decode_poll : decode 0b0111_0000_0000_0000#16 = .ok .poll := rfl
theorem test_decode_take : decode 0b1000_0000_0000_0000#16 = .ok .take := rfl
theorem test_decode_ledCfgOut : decode 0b1001_0000_0000_0101#16 = .ok (.ledCfgOut 5) := rfl
theorem test_decode_ledAssert : decode 0b1010_0000_0000_0011#16 = .ok (.ledAssert 3) := rfl
theorem test_decode_ledDeassert : decode 0b1011_0000_1111_1011#16 = .ok (.ledDeassert (-5)) := rfl
theorem test_decode_delay : decode 0b1100_0000_0000_0000#16 = .ok .delay := rfl

/-- The operand's two ends (P6 of 95_test_vectors.md). -/
theorem test_decode_ledAssert_ends :
    decode 0xA07F = .ok (.ledAssert 127) ∧ decode 0xA080 = .ok (.ledAssert (-128)) := ⟨rfl, rfl⟩

/-- The illegal words of 95_test_vectors.md part 2.1, each rejected for its own reason. -/
theorem test_decode_rejects_opcodes :
    [0x0000, 0xD000, 0xE000, 0xF000, 0xFFFF].map decode = List.replicate 5 (.error .opcode) := rfl
theorem test_decode_rejects_reserved :
    [0xA100, 0x9800, 0x1F00].map decode = List.replicate 3 (.error .reserved) := rfl
theorem test_decode_rejects_operands :
    [0x7001, 0x8080, 0xC001].map decode = List.replicate 3 (.error .operand) := rfl

theorem test_encode_words :
    [Instr.poll, .ledAssert (-1), .ledDeassert 8, .ledCfgOut 7].map encode = [0x7000, 0xA0FF, 0xB008, 0x9007] := by
  decide

theorem test_decodeTableWord : decodeTableWord 16 0xB0FF = some (.ledDeassert (-1)) ∧ decodeTableWord 16 0 = none :=
  by decide

/-! ## Operands (vector V-L1, R110) and the assembler (R70) -/

theorem test_lineAt_values :
    [0, 7, 8, 9, 15, 16, -1, -7, -8, -9, 127, -128].map lineAt = [0, 7, 0, 1, 7, 0, 7, 1, 0, 7, 7, 0] := by decide

theorem test_lineAt_operands :
    ([0x7F, 0x80, 0x81, 0xF6, 0xFE] : List (BitVec 8)).map (fun b => lineAt b.toInt) = [7, 0, 1, 6, 6] := by decide

/-- The table of R145. -/
theorem test_nextPos_table :
    (List.range 8).map (fun k => (nextPos (BitVec.ofNat 3 k) .plus, nextPos (BitVec.ofNat 3 k) .minus)) =
      [(1, 7), (2, 0), (3, 1), (4, 2), (5, 3), (6, 4), (7, 5), (0, 6)] := by decide

theorem test_assemble_examples :
    assembleLine "LED_ASSERT e ; same as LED_ASSERT 3".toList = .ok (some (.ledAssert 3)) ∧
    assembleLine "LED_DEASSERT -1".toList = .ok (some (.ledDeassert (-1))) ∧
    assembleLine "  ; nothing here".toList = .ok none := ⟨rfl, rfl, rfl⟩

theorem test_assemble_rejects :
    assembleLine "LED_ASSERT 128".toList = .error .operandOutOfRange ∧
    assembleLine "POLL 1".toList = .error .unexpectedOperand ∧
    assembleLine "NOP".toList = .error .unknownMnemonic := ⟨rfl, rfl, rfl⟩

/-! ## Small states -/

/-- The state a step answers, if it answers one. -/
def nextOf (o : Result) : Option State :=
  match o with
  | .next t => some t
  | .fault _ => none
  | .refused _ => none

/-- The line a step was refused for, if it was. -/
def refusedLine (o : Result) : Option Line :=
  match o with
  | .next _ => none
  | .fault _ => none
  | .refused (.unconfiguredLine k) => some k
  | .refused (.notModelled _) => none
  | .refused .unreachablePhase => none

/-- One word issued from a state. -/
def after (s : State) (w : Word) : Option State := nextOf (step (s.offer (.cmd w)))

/-- Reset, then every line an output (95_test_vectors.md part 2.3). -/
def ring : State := { State.reset with outCfg := 0xFF }

/-- Reset, then the line configured (part 2.4). -/
def polled : State := { State.reset with inCfg := true }

/-- The start of V-E1 to V-E6 (part 2.5). -/
def armedState : State :=
  { State.reset with inCfg := true, srcSel := true, edgeEn := true, cell := some false, unmask := true }

/-- An edge latched and the callback enabled, as in V-E2. -/
def waiting : State := { armedState with line := true, pending := true }

/-- Halted by a TAKE from reset (V-F1). -/
def deadState : State := { State.reset with halted := true, cause := 1 }

/-- Booted for polling with one line lit, at the start of a tick (P1). -/
def ticking : State := { State.reset with periphTaken := true, inCfg := true, outCfg := 0xFF, led := 0x80, pos := 7 }

/-! ## One step of each operation -/

theorem test_periphTake : (after .reset 0x1000).map (·.periphTaken) = some true := rfl
/-- V-F4. -/
theorem test_periphTake_twice :
    (after { State.reset with periphTaken := true } 0x1000).map (fun t => (t.halted, t.cause)) = some (true, 3) := rfl
theorem test_btnCfgIn : after .reset 0x2000 = some { State.reset with inCfg := true, report := .done } := rfl
theorem test_btnSelIrq : after .reset 0x3000 = some { State.reset with srcSel := true, report := .done } := rfl
theorem test_btnEdgeEn : after .reset 0x4000 = some { State.reset with edgeEn := true, report := .done } := rfl
theorem test_cellInit : (after .reset 0x5000).map (·.cell) = some (some false) := rfl
/-- V-F3: the existing latch is not overwritten. -/
theorem test_cellInit_twice :
    (after { State.reset with cell := some true } 0x5000).map (fun t => (t.cause, t.cell)) = some (2, some true) := rfl
theorem test_irqUnmask : after .reset 0x6000 = some { State.reset with unmask := true, report := .done } := rfl
/-- V-P1, POLL 2. -/
theorem test_poll_fresh :
    (after { polled with line := true } 0x7000).map (fun t => (t.handled, t.report)) = some (true, .doneWith true) := rfl
/-- V-P5. -/
theorem test_poll_held :
    (after { polled with line := true, handled := true } 0x7000).map (fun t => (t.handled, t.report)) =
      some (true, .doneWith false) := rfl
/-- S10. -/
theorem test_take :
    (after { armedState with cell := some true } 0x8000).map (fun t => (t.cell, t.report)) =
      some (some false, .doneWith true) := rfl
/-- V-F1. -/
theorem test_take_before_init : (after .reset 0x8000).map (fun t => (t.halted, t.cause, t.cell)) =
    some (true, 1, none) := rfl
/-- Part 2.1: LED_CFG_OUT -1. -/
theorem test_ledCfgOut : (after .reset 0x90FF).map (fun t => (t.outCfg, t.led)) = some (0x80, 0) := by decide
/-- Part 2.3, step 4. -/
theorem test_ledAssert : (after { ring with led := 0x08 } 0xA0FF).map (·.led) = some 0x88 := by decide
/-- Part 2.1: refuse. -/
theorem test_ledAssert_unconfigured : refusedLine (step (State.reset.offer (.cmd 0xA003))) = some 3 := by decide
/-- Part 2.3, step 5. -/
theorem test_ledDeassert : (after { ring with led := 0x88 } 0xB0FB).map (·.led) = some 0x80 := by decide
theorem test_ledDeassert_unconfigured : refusedLine (step (State.reset.offer (.cmd 0xB003))) = some 3 := by decide
theorem test_delay : after ticking 0xC000 = some { ticking with report := .done } := rfl

/-! ## The other turns -/

/-- V-E12: armed and masked, the edge is latched. -/
theorem test_edge_latched_while_masked :
    (nextOf (step ({ armedState with unmask := false }.offer (.lineSet true)))).map (·.pending) = some true := rfl
/-- V-E11: only enabled. -/
theorem test_edge_not_selected :
    (nextOf (step ({ State.reset with edgeEn := true }.offer (.lineSet true)))).map (·.pending) = some false := rfl
/-- V-E2. -/
theorem test_callback :
    nextOf (step (waiting.offer .callback)) = some { waiting with pending := false, cell := some true } := rfl
/-- V-F5: the flag is left set. -/
theorem test_callback_before_init :
    (nextOf (step ({ waiting with cell := none }.offer .callback))).map (fun t => (t.cause, t.pending)) =
      some (1, true) := rfl
/-- V-E17. -/
theorem test_spurious :
    (nextOf (step ({ armedState with inCfg := false }.offer .spurious))).map (·.pending) = some true := rfl
/-- P4: a halted block ignores an LED write, it does not refuse it. -/
theorem test_halted_ignores : after deadState 0xA000 = some { deadState with report := .ignored } := rfl
/-- V-F10. -/
theorem test_reset_leaves_halt : nextOf (step (deadState.offer .reset)) = some .reset := rfl
/-- S5: from 7 forward the ring wraps to 0. -/
theorem test_tick_wraps :
    (record tickTurns ticking).map (fun r => (r.2.led, r.2.pos, r.2.dir)) = some (1, 0, .plus) := by decide

/-! ## Witnesses: words -/

theorem witness_DecodeEncodeRoundTrip :
    (Instr.ledAssert (-128)).wf = true ∧ (Instr.ledDeassert 127).wf = true ∧ Instr.take.wf = true := by decide

theorem witness_EncodeDecodeRoundTrip : decode 0x9080 = .ok (.ledCfgOut (-128)) ∧ decode 0x8000 = .ok .take :=
  ⟨rfl, rfl⟩

theorem witness_DecodeFollowsOpcodeMap : decode 0xB07F = .ok (.ledDeassert 127) ∧
    (⟨0xB, 0xB000, 0xFF00⟩ : OpcodeRow) ∈ opcodeMap ∧ OpcodeRow.selects ⟨0xB, 0xB000, 0xFF00⟩ 0xB07F = true :=
  ⟨rfl, by decide, by decide⟩

theorem illegal_of_error {w : Word} {e : Illegal} (h : decode w = .error e) (i : Instr) : decode w ≠ .ok i := by
  rw [h]; intro h'; cases h'

/-- A word of each of R66's three cases, and a legal word. -/
theorem witness_IllegalWordsAreTheThreeCases :
    (∀ i, decode 0xD000 ≠ .ok i) ∧ (∀ i, decode 0xA100 ≠ .ok i) ∧ (∀ i, decode 0x7001 ≠ .ok i) ∧
    decode 0xA001 = .ok (.ledAssert 1) :=
  ⟨illegal_of_error rfl, illegal_of_error rfl, illegal_of_error rfl, rfl⟩

theorem witness_StepRunsDecodedInstruction :
    (polled.offer (.cmd 0x7000)).inputs = .cmd 0x7000 :: [] ∧ decode 0x7000 = .ok .poll := ⟨rfl, rfl⟩

theorem witness_IllegalWordHaltsWithCauseFour : State.reset.halted = false ∧ ∀ i, decode 0x0000 ≠ .ok i :=
  ⟨rfl, illegal_of_error rfl⟩

/-! ## Witnesses: the operations. A running block, with every clause's state -/

theorem witness_BtnCfgInConfiguresTheLine : State.reset.halted = false ∧ State.reset.inCfg = false := by decide
theorem witness_BtnSelIrqSelectsTheSource : State.reset.halted = false ∧ State.reset.srcSel = false := by decide
theorem witness_BtnEdgeEnEnablesTheRisingEdge : State.reset.halted = false ∧ State.reset.edgeEn = false := by decide
theorem witness_CellInitConstructsOnce : State.reset.halted = false ∧ State.reset.cell = none ∧
    armedState.halted = false ∧ armedState.cell ≠ none := by decide
theorem witness_IrqUnmaskUnmasks : waiting.halted = false ∧ waiting.pending = true := by decide
theorem witness_PollStepsTheDebounceMachine : polled.halted = false ∧ polled.inCfg = true ∧
    State.reset.halted = false ∧ State.reset.inCfg = false := by decide
theorem witness_TakeReadsAndClearsTheLatch : armedState.halted = false ∧ armedState.cell = some false ∧
    State.reset.halted = false ∧ State.reset.cell = none := by decide
theorem witness_PeriphTakeSucceedsOnce : State.reset.halted = false ∧ State.reset.periphTaken = false ∧
    ticking.halted = false ∧ ticking.periphTaken = true := by decide
theorem witness_DelayChangesNoState : ticking.halted = false := by decide
theorem witness_LedCfgOutConfiguresOneLine : State.reset.halted = false ∧ lineAt (-128) = 0 ∧ lineAt 127 = 7 := by
  decide
theorem witness_LedAssertRaisesOneLine : ring.halted = false ∧ ((7 : Line).toNat : Int) = (-1 : Int).fmod 8 ∧
    ((0 : Line).toNat : Int) = (-128 : Int).fmod 8 ∧ getLine ring.outCfg 7 = true ∧ getLine ring.outCfg 0 = true ∧
    State.reset.halted = false ∧ getLine State.reset.outCfg 7 = false ∧ getLine State.reset.outCfg 0 = false := by
  decide
theorem witness_LedDeassertLowersOneLine : ticking.halted = false ∧ ((7 : Line).toNat : Int) = (127 : Int).fmod 8 ∧
    ((0 : Line).toNat : Int) = (-8 : Int).fmod 8 ∧ getLine ticking.outCfg 7 = true ∧ getLine ticking.outCfg 0 = true ∧
    getLine State.reset.outCfg 7 = false ∧ getLine State.reset.outCfg 0 = false := by decide

/-! ## Witnesses: environment, interrupt, halt -/

/-- A callback with a cell, and one without. -/
theorem witness_CallbackRunsWhenDeliverable :
    (waiting.pending = true ∧ waiting.unmask = true ∧ waiting.halted = false ∧ waiting.cell = some false) ∧
    State.deliverable { waiting with cell := none } = true := by decide

theorem witness_CallbackTurnIdlesWhenNotDeliverable :
    ¬(armedState.pending = true ∧ armedState.unmask = true ∧ armedState.halted = false) := by decide

theorem witness_HaltedBlockMovesOnlyTheLine : deadState.halted = true ∧ (.lineSet true : Turn) ≠ .reset := by decide

/-- The three operations that halt, each with the state in which it does, and one that does not. -/
theorem witness_FatalErrorsFollowTheTable :
    (State.reset.halted = false ∧ ∃ t, exec .take .reset = .next t ∧ t.halted = true ∧ t.cause = 1) ∧
    (armedState.halted = false ∧ ∃ t, exec .cellInit armedState = .next t ∧ t.halted = true ∧ t.cause = 2) ∧
    (ticking.halted = false ∧ ∃ t, exec .periphTake ticking = .next t ∧ t.halted = true ∧ t.cause = 3) ∧
    (∃ t, exec .delay .reset = .next t ∧ t.halted = false) :=
  ⟨⟨rfl, _, rfl, rfl, rfl⟩, ⟨rfl, _, rfl, rfl, rfl⟩, ⟨rfl, _, rfl, rfl, rfl⟩, ⟨_, rfl, rfl⟩⟩

/-- The five outcomes of R73. -/
theorem witness_EveryWordHasOneOfFiveOutcomes :
    (after .reset 0xC000).map (·.report) = some .done ∧ (after polled 0x7000).map (·.report) = some (.doneWith false) ∧
    (after .reset 0x8000).map (·.report) = some (.halt .useBeforeInit) ∧
    (after deadState 0x8000).map (·.report) = some .ignored ∧
    refusedLine (step (State.reset.offer (.cmd 0xB000))) = some 0 := by decide

/-! ## Witnesses: the sequencer -/

/-- Both designs, and a TAKE that halts. -/
theorem witness_PhaseZeroQueriesTheButton :
    (ticking.halted = false ∧ ticking.phase = 0 ∧ ticking.design = .poll ∧ ticking.inCfg = true) ∧
    (armedState.halted = false ∧ armedState.phase = 0 ∧ State.design { armedState with design := .edge } = .edge ∧
      armedState.cell = some false) ∧
    (State.halted { State.reset with design := .edge } = false ∧
      State.cell { State.reset with design := .edge } = none) := by decide

theorem witness_PhaseOneFlipsOnAFreshPress :
    State.halted { ticking with phase := 1 } = false ∧ State.phase { ticking with phase := 1 } = 1 := by decide
theorem witness_PhaseTwoComputesTheNextPosition :
    State.halted { ticking with phase := 2 } = false ∧ State.phase { ticking with phase := 2 } = 2 := by decide
theorem witness_PhaseThreeAssertsTheNewLine :
    State.halted { ticking with phase := 3 } = false ∧ State.phase { ticking with phase := 3 } = 3 ∧
    getLine ticking.outCfg ticking.nxt = true ∧
    State.halted { State.reset with phase := 3 } = false ∧ State.phase { State.reset with phase := 3 } = 3 ∧
    getLine State.reset.outCfg State.reset.nxt = false := by decide
theorem witness_PhaseFourDeassertsTheOldLine :
    State.halted { ticking with phase := 4 } = false ∧ State.phase { ticking with phase := 4 } = 4 ∧
    getLine ticking.outCfg ticking.pos = true ∧
    State.halted { State.reset with phase := 4 } = false ∧ State.phase { State.reset with phase := 4 } = 4 ∧
    getLine State.reset.outCfg State.reset.pos = false := by decide
theorem witness_PhaseFiveSleepsAndWraps :
    State.halted { ticking with phase := 5 } = false ∧ State.phase { ticking with phase := 5 } = 5 := by decide

/-- A tick of each design, with a press. -/
theorem witness_OneTickHopsOneLine :
    (ticking.halted = false ∧ ticking.phase = 0 ∧ (∀ k, getLine ticking.outCfg k = true) ∧ ticking.design = .poll ∧
      ticking.inCfg = true ∧ true = (State.line { ticking with line := true } && !ticking.handled)) ∧
    (State.design { ticking with design := .edge, cell := some true } = .edge ∧
      State.cell { ticking with design := .edge, cell := some true } = some true) := by decide

theorem witness_HeldPressFlipsOnceInThreeTicks :
    let s := { ticking with line := true }
    s.halted = false ∧ s.phase = 0 ∧ (∀ k, getLine s.outCfg k = true) ∧ s.design = .poll ∧ s.inCfg = true ∧
      s.line = true ∧ s.handled = false := by decide

theorem witness_PollingLoopNeverHalts : ticking.design = .poll ∧ ticking.halted = false ∧
    (record (List.replicate 6 .seqStep) ticking).isSome = true := by decide

/-! ## Witnesses: invariants -/

theorem legal_waiting : Legal waiting :=
  ⟨by decide, by decide, by decide, fun _ => by decide⟩

theorem legal_dead : Legal { deadState with phase := 5, cause := 4 } :=
  ⟨by decide, by decide, by decide, fun h => by cases h⟩

/-- An armed block whose edge is delivered, and a halted one at the ends of `cause` and `phase`. -/
theorem witness_EveryStepKeepsLegal :
    (Legal (waiting.offer .callback) ∧ ∃ t, step (waiting.offer .callback) = .next t) ∧
    Legal { deadState with phase := 5, cause := 4 } :=
  ⟨⟨⟨by decide, by decide, by decide, fun _ => by decide⟩, _, rfl⟩, legal_dead⟩

theorem steady_ticking : SteadyRing ticking :=
  ⟨by decide, fun h => by revert h; decide, by decide⟩

theorem steady_two_lit : SteadyRing { ticking with phase := 4, led := 0x81 } :=
  ⟨by decide, fun _ => by decide, by decide⟩

/-- Phase 0, and phase 4 with two lines lit. -/
theorem witness_StepsKeepSteadyRing :
    leavesRing .seqStep = true ∧ leavesRing (.cmd 0x9000) = true ∧ leavesRing (.cmd 0x7000) = true ∧
    (SteadyRing ticking ∧ ∃ t, step (ticking.offer .seqStep) = .next t) ∧
    (SteadyRing { ticking with phase := 4, led := 0x81 } ∧
      ∃ t, step ({ ticking with phase := 4, led := 0x81 }.offer .seqStep) = .next t) :=
  ⟨rfl, rfl, rfl, ⟨steady_ticking, _, rfl⟩, steady_two_lit, _, rfl⟩

theorem witness_FirstTickReachesSteadyRing :
    let s := { ring with phase := 3, nxt := 1 }
    s.halted = false ∧ s.led = 0 ∧ s.phase = 3 ∧ s.nxt ≠ s.pos ∧ getLine s.outCfg s.nxt = true ∧
      getLine s.outCfg s.pos = true := by decide

theorem witness_SteadyRingLightsOneOrTwo :
    SteadyRing ticking ∧ SteadyRing { ticking with phase := 4, led := 0x81 } := ⟨steady_ticking, steady_two_lit⟩

/-- Each configuration bit risen by its own word, and a halted block's turn. -/
theorem witness_ConfigurationBitsOnlyRise :
    (after .reset 0x2000).map (·.inCfg) = some true ∧ (after .reset 0x3000).map (·.srcSel) = some true ∧
    (after .reset 0x4000).map (·.edgeEn) = some true ∧ (after .reset 0x6000).map (·.unmask) = some true ∧
    (after .reset 0x1000).map (·.periphTaken) = some true ∧ (after .reset 0x9007).map (·.outCfg) = some 0x80 ∧
    (after deadState 0x9007).map (·.halted) = some true ∧ (.cmd 0x9007 : Turn) ≠ .reset := by decide

/-- The cell changed by CELL_INIT, by the callback, by an issued TAKE and by the sequencer's TAKE. -/
theorem witness_CellChangesOnlyAsR13AndR14Say :
    (after .reset 0x5000).map (·.cell) = some (some false) ∧
    (nextOf (step (waiting.offer .callback))).map (·.cell) = some (some true) ∧
    (after { armedState with cell := some true } 0x8000).map (·.cell) = some (some false) ∧
    (nextOf (step ({ armedState with cell := some true, design := .edge }.offer .seqStep))).map (·.cell) =
      some (some false) := by decide

/-- `handled` changed by POLL and by phase 0; a latch raised and lowered by an issued word at the two ends of the
operand, by phase 3 and by phase 4. -/
theorem witness_HandledAndLatchesHaveOneWriter :
    (after { polled with line := true } 0x7000).map (·.handled) = some true ∧
    (nextOf (step ({ ticking with line := true }.offer .seqStep))).map (·.handled) = some true ∧
    (after ring 0xA080).map (fun t => getLine t.led (lineAt (-128))) = some true ∧
    (after { ring with led := 0x80 } 0xB07F).map (fun t => getLine t.led (lineAt 127)) = some false ∧
    (nextOf (step ({ ticking with phase := 3, nxt := 0 }.offer .seqStep))).map (fun t => getLine t.led 0) = some true ∧
    (nextOf (step ({ ticking with phase := 4 }.offer .seqStep))).map (fun t => getLine t.led 7) = some false := by
  decide

/-- `dir`, `pos`, `nxt`, `fresh` and `phase` each changed, the last also from 5 to 0. -/
theorem witness_SequencerStateIsTheSequencers :
    (nextOf (step ({ ticking with phase := 1, fresh := true }.offer .seqStep))).map (·.dir) = some .minus ∧
    (nextOf (step ({ ticking with phase := 4 }.offer .seqStep))).map (·.pos) = some 0 ∧
    (nextOf (step ({ ticking with phase := 2, dir := .minus }.offer .seqStep))).map (·.nxt) = some 6 ∧
    (nextOf (step ({ ticking with line := true }.offer .seqStep))).map (·.fresh) = some true ∧
    (nextOf (step ({ ticking with phase := 5 }.offer .seqStep))).map (·.phase) = some 0 := by decide

theorem witness_OnlyPeriphTakeReadsTheHandle : Instr.take ≠ .periphTake ∧ Instr.ledAssert 8 ≠ .periphTake := by decide

theorem witness_ConfiguredMachineNeverStops : (∀ k, getLine ticking.outCfg k = true) ∧ ticking.phase.toNat ≤ 5 ∧
    State.phase { ticking with phase := 5 } = 5 := by decide

/-! ## Witnesses: runs -/

/-- Presses, a release between POLLs, other operations between them; then the control loop's own POLLs, a tick apart,
with the line held. -/
theorem witness_PollReportsEachRunOfHighSamplesOnce :
    let as : List Turn := [.lineSet true, .cmd 0x7000, .cmd 0xC000, .cmd 0x7000, .lineSet false, .cmd 0x7000]
    let bs : List Turn := .lineSet true :: tickTurns ++ tickTurns
    (polled.inCfg = true ∧ (∀ a ∈ as, a ≠ .reset) ∧
      (record as polled).map (fun r => pollSamples r.1) = some [(true, true), (true, false), (false, false)]) ∧
    (ticking.inCfg = true ∧ (∀ a ∈ bs, a ≠ .reset) ∧
      (record bs ticking).map (fun r => pollSamples r.1) = some [(true, true), (true, false)]) := by
  decide

/-- A callback between two TAKEs (V-E2), and none (V-E1); then phases 1 to 5 of the edge loop with a callback among them,
up to the TAKE of the next phase 0. -/
theorem witness_TakeReportsWhetherACallbackRan :
    let as : List Turn := [.lineSet true, .callback, .cmd 0xC000]
    let bs : List Turn := [.seqStep, .seqStep, .lineSet true, .seqStep, .callback, .seqStep, .seqStep]
    let u := { armedState with design := .edge, outCfg := 0xFF, phase := 1 }
    (armedState.cell = some false ∧ (∀ a ∈ as, a ≠ .reset) ∧
      (record as armedState).map (fun r => (r.2.halted, r.1.any Entry.isTake, r.1.any Entry.ranCallback)) =
        some (false, false, true)) ∧
    (record [.cmd 0xC000] armedState).map (fun r => (r.2.halted, r.1.any Entry.isTake, r.1.any Entry.ranCallback)) =
      some (false, false, false) ∧
    (u.cell = some false ∧ (∀ a ∈ bs, a ≠ .reset) ∧
      (record bs u).map (fun r => (r.2.halted, r.1.any Entry.isTake, r.1.any Entry.ranCallback)) =
        some (false, false, true) ∧
      (record bs u).map (fun r => (r.2.phase, r.2.design)) = some (0, .edge)) := by decide

/-- A run in which the interrupt agent takes every turn: one callback, then nothing. -/
def callbackStates : Nat → State
  | 0 => waiting
  | _ + 1 => { waiting with pending := false, cell := some true }

theorem witness_FairRunsDeliverPendingEdges :
    IsRun (fun _ => .callback) callbackStates ∧ WeaklyFair (fun _ => .callback) callbackStates ∧
    (callbackStates 0).pending = true ∧ (callbackStates 0).unmask = true :=
  ⟨fun n => by cases n <;> rfl, fun n _ => ⟨n, Nat.le_refl n, rfl⟩, rfl, rfl⟩

/-- An edge already pending; and an armed block with the line low and no edge yet. -/
theorem witness_UnmaskBeforeInitAdmitsBothRuns :
    let s := { waiting with cell := none }
    let u := { armedState with cell := none, unmask := false }
    (s.halted = false ∧ s.cell = none ∧ s.pending = true ∧ s.unmask = true) ∧
    (u.halted = false ∧ u.cell = none ∧ u.srcSel = true ∧ u.edgeEn = true ∧ u.line = false ∧ u.pending = false) := by
  decide

theorem witness_InitPBootsForPolling : State.reset.halted = false ∧ State.reset.periphTaken = false := by decide

theorem witness_InitEBootsForTheEdgeDesign :
    State.reset.halted = false ∧ State.reset.periphTaken = false ∧ State.reset.cell = none := by decide

end Sys2Proof.Tests
end

section
/-!
The pins as functions of the state (R23): one rule for a configured line, one for an undriven line.
-/

namespace Sys2Proof.Machine

/-- R23, first half: a configured line shows its latch, whatever the undriven lines show. -/
theorem getLine_ledOut_configured {s : State} {k : Line} (undriven : Ring) (h : getLine s.outCfg k = true) :
    getLine (s.ledOut undriven) k = getLine s.led k := by
  simp [State.ledOut, h]

/-- R23, second half: on an unconfigured line the latch is masked out. -/
theorem getLine_ledOut_unconfigured {s : State} {k : Line} (undriven : Ring) (h : getLine s.outCfg k = false) :
    getLine (s.ledOut undriven) k = getLine undriven k := by
  simp [State.ledOut, h]

/-- Settles O23, by whether the line is configured. -/
theorem pinsShowConfiguredLatches : Obligations.PinsShowConfiguredLatches := by
  intro s undriven k
  cases h : getLine s.outCfg k with
  | true => exact getLine_ledOut_configured undriven h
  | false => exact getLine_ledOut_unconfigured undriven h

end Sys2Proof.Machine
end

section
/-!
Button input, design (a), in a running block (R81, R82): what BTN_CFG_IN and POLL write, and that they write nothing else.
-/

namespace Sys2Proof.Machine

/-- BTN_CFG_IN means `execBtnCfgIn` (R81). -/
theorem exec_btnCfgIn (s : State) : exec .btnCfgIn s = execBtnCfgIn s := rfl

/-- POLL means `execPoll` (R82). -/
theorem exec_poll (s : State) : exec .poll s = execPoll s := rfl

/-- R81 in a running block: one bit is written, whatever it was. -/
theorem execBtnCfgIn_running {s : State} (hr : s.halted = false) :
    execBtnCfgIn s = .next { s with inCfg := true, report := .done } :=
  whenRunning_running _ hr

/-- The debounce machine keeps the level it is given, and responds to the first sample of a press (R80). -/
theorem pollSample_eq (level : Bool) (s : State) :
    pollSample level s = .next { s with handled := level, report := .doneWith (level && !s.handled) } := by
  simp [pollSample, doneWith, State.reporting, debounceResp]

/-- R82 in a running block, in terms of the one read of the line. -/
theorem execPoll_of_readButton {s t : State} {level : Bool} (hr : s.halted = false)
    (hread : readButton s = (level, t)) :
    execPoll s = .next { t with handled := level, report := .doneWith (level && !t.handled) } := by
  rw [execPoll, whenRunning_running _ hr, hread, pollSample_eq]

/-- Settles O8: the word is a row of R64, and a running block performs the write. -/
theorem btnCfgInConfiguresTheLine : Obligations.BtnCfgInConfiguresTheLine := by
  refine ⟨rfl, fun s hr => ?_⟩
  rw [exec_btnCfgIn, execBtnCfgIn_running hr]

/-- Settles O13: the read of the line gives the level and the draw counter (`readButton_spec`), and the debounce machine
takes its step on them. -/
theorem pollStepsTheDebounceMachine : Obligations.PollStepsTheDebounceMachine := by
  refine ⟨rfl, fun s hr => ?_⟩
  obtain ⟨level, n, hread, hconfigured⟩ := readButton_spec s
  refine ⟨level, n, hconfigured, ?_⟩
  rw [exec_poll, execPoll_of_readButton hr hread]

end Sys2Proof.Machine
end

section
/-!
Button input, design (b), in a running block (R94 to R98): what each of its five operations writes, or which fatal error
it raises, and that nothing else changes.
-/

namespace Sys2Proof.Machine

/-- BTN_SEL_IRQ means `execBtnSelIrq` (R94). -/
theorem exec_btnSelIrq (s : State) : exec .btnSelIrq s = execBtnSelIrq s := rfl

/-- BTN_EDGE_EN means `execBtnEdgeEn` (R95). -/
theorem exec_btnEdgeEn (s : State) : exec .btnEdgeEn s = execBtnEdgeEn s := rfl

/-- CELL_INIT means `execCellInit` (R96). -/
theorem exec_cellInit (s : State) : exec .cellInit s = execCellInit s := rfl

/-- IRQ_UNMASK means `execIrqUnmask` (R97). -/
theorem exec_irqUnmask (s : State) : exec .irqUnmask s = execIrqUnmask s := rfl

/-- TAKE means `execTake` (R98). -/
theorem exec_take (s : State) : exec .take s = execTake s := rfl

/-- A fatal error raised by an operation halts with its code, shows it on the ports, and writes nothing else (R158). -/
theorem haltWith_eq (c : Fatal) (s : State) :
    haltWith c s = .next { s with halted := true, cause := c.code, report := .halt c } := rfl

/-- R94 in a running block: one bit is written, whatever it was. -/
theorem execBtnSelIrq_running {s : State} (hr : s.halted = false) :
    execBtnSelIrq s = .next { s with srcSel := true, report := .done } :=
  whenRunning_running _ hr

/-- R95 in a running block: one bit is written, whatever it and the line are. -/
theorem execBtnEdgeEn_running {s : State} (hr : s.halted = false) :
    execBtnEdgeEn s = .next { s with edgeEn := true, report := .done } :=
  whenRunning_running _ hr

/-- R97 in a running block: one bit is written, with or without a cell. -/
theorem execIrqUnmask_running {s : State} (hr : s.halted = false) :
    execIrqUnmask s = .next { s with unmask := true, report := .done } :=
  whenRunning_running _ hr

/-- R96, first half: where there is no cell it is made, `pressed` clear. -/
theorem execCellInit_of_cell_none {s : State} (hr : s.halted = false) (hc : s.cell = none) :
    execCellInit s = .next { s with cell := some false, report := .done } := by
  rw [execCellInit, whenRunning_running _ hr, hc]
  rfl

/-- R96, second half: a cell that exists, whatever it holds, raises DOUBLE_INIT. -/
theorem execCellInit_of_cell_some {s : State} {pressed : Bool} (hr : s.halted = false)
    (hc : s.cell = some pressed) :
    execCellInit s = haltWith .doubleInit s := by
  simp only [execCellInit, whenRunning_running _ hr, hc]

/-- R98, first half: the latch is the response, and is cleared in the same step. -/
theorem execTake_of_cell_some {s : State} {pressed : Bool} (hr : s.halted = false) (hc : s.cell = some pressed) :
    execTake s = .next { s with cell := some false, report := .doneWith pressed } := by
  rw [execTake, whenRunning_running _ hr, hc]
  rfl

/-- R98, second half: with no cell there is nothing to read, USE_BEFORE_INIT. -/
theorem execTake_of_cell_none {s : State} (hr : s.halted = false) (hc : s.cell = none) :
    execTake s = haltWith .useBeforeInit s := by
  simp only [execTake, whenRunning_running _ hr, hc]

/-- Settles O9: the word is a row of R64, and a running block performs the write. -/
theorem btnSelIrqSelectsTheSource : Obligations.BtnSelIrqSelectsTheSource := by
  refine ⟨rfl, fun s hr => ?_⟩
  rw [exec_btnSelIrq, execBtnSelIrq_running hr]

/-- Settles O10: the word is a row of R64, and a running block performs the write. -/
theorem btnEdgeEnEnablesTheRisingEdge : Obligations.BtnEdgeEnEnablesTheRisingEdge := by
  refine ⟨rfl, fun s hr => ?_⟩
  rw [exec_btnEdgeEn, execBtnEdgeEn_running hr]

/-- Settles O11, by whether the cell exists. -/
theorem cellInitConstructsOnce : Obligations.CellInitConstructsOnce := by
  refine ⟨rfl, fun s hr => ⟨fun hnone => ?_, fun hsome => ?_⟩⟩
  · rw [exec_cellInit, execCellInit_of_cell_none hr hnone]
  · obtain ⟨pressed, hc⟩ := Option.ne_none_iff_exists'.mp hsome
    rw [exec_cellInit, execCellInit_of_cell_some hr hc, haltWith_eq, Fatal.code]

/-- Settles O12: the write leaves `pending` and `halted` as they were, so a pending edge meets the three conditions of
R165 (`deliverable_iff`). -/
theorem irqUnmaskUnmasks : Obligations.IrqUnmaskUnmasks := by
  refine ⟨rfl, fun s hr => ⟨?_, fun hpending => ?_⟩⟩
  · rw [exec_irqUnmask, execIrqUnmask_running hr]
  · exact (deliverable_iff _).mpr ⟨hpending, rfl, hr⟩

/-- Settles O14, by whether there is a cell to read. -/
theorem takeReadsAndClearsTheLatch : Obligations.TakeReadsAndClearsTheLatch := by
  refine ⟨rfl, fun s hr => ⟨fun pressed hsome => ?_, fun hnone => ?_⟩⟩
  · rw [exec_take, execTake_of_cell_some hr hsome]
  · rw [exec_take, execTake_of_cell_none hr hnone, haltWith_eq, Fatal.code]

end Sys2Proof.Machine
end

section
/-!
The environment's turn (R90, R91), in every state, halted or not.
-/

namespace Sys2Proof.Machine

/-- A LINE_SET turn is the environment's step, taken with the ports idle (R50, R69). -/
theorem step_offer_lineSet (s : State) (v : Bool) :
    step (s.offer (.lineSet v)) = .next (lineSet v { s with report := .idle }) :=
  step_offer s (.lineSet v)

/-- The detector's full condition: the line rises (R90) while it is selected, enabled and not halted (R91). -/
theorem risingEdge_and_armed (s : State) (v : Bool) :
    (risingEdge s.line v && s.armed) = (!s.line && v && s.srcSel && s.edgeEn && !s.halted) := by
  simp [risingEdge, State.armed, Bool.and_assoc]

/-- Settles O26: the environment's step writes `line` and `pending` alone (`lineSet_eq`), and clearing the ports first
changes nothing the detector reads. -/
theorem lineSetMovesTheLineAndLatchesEdges : Obligations.LineSetMovesTheLineAndLatchesEdges := by
  intro s v
  rw [step_offer_lineSet, lineSet_eq, risingEdge_and_armed]

end Sys2Proof.Machine
end

section
/-!
The LED ring: the words of its three operations (R61 to R64), the operand's line (R110), and what a running block writes
or refuses (R112 to R115).
-/

namespace Sys2Proof.Machine

/-! ## A word put together from an opcode word and an operand (R61, R63) -/

/-- An operand on the low eight bits leaves the opcode field to the rest of the word. -/
theorem opcField_or_operand (base : Word) (imm8 : BitVec 8) :
    opcField (base ||| imm8.setWidth 16) = opcField base := by
  have hoperand : (imm8.setWidth 16).extractLsb' 12 4 = 0#4 := by
    apply BitVec.eq_of_getLsbD_eq
    intro i hi
    simp [show 8 ≤ 12 + i by omega]
  rw [opcField, field_or, hoperand, BitVec.or_zero, opcField]

/-- An operand on the low eight bits leaves the reserved field to the rest of the word. -/
theorem rsvField_or_operand (base : Word) (imm8 : BitVec 8) :
    rsvField (base ||| imm8.setWidth 16) = rsvField base := by
  have hoperand : (imm8.setWidth 16).extractLsb' 8 4 = 0#4 := by
    apply BitVec.eq_of_getLsbD_eq
    intro i hi
    simp
  rw [rsvField, field_or, hoperand, BitVec.or_zero, rsvField]

/-- An operand on the low eight bits is the operand field, where the rest of the word leaves that field clear. -/
theorem immField_or_operand {base : Word} (himm : immField base = 0#8) (imm8 : BitVec 8) :
    immField (base ||| imm8.setWidth 16) = imm8 := by
  have hoperand : (imm8.setWidth 16).extractLsb' 0 8 = imm8 := by
    apply BitVec.eq_of_getLsbD_eq
    intro i hi
    simp [hi, show i < 16 by omega]
  rw [immField] at himm ⊢
  rw [field_or, hoperand, himm, BitVec.zero_or]

/-- A format I word is read as its operation at `sext_8(imm8)`: any operand is legal (R63). -/
theorem decodeI_or_operand (mk : Int → Instr) {base : Word} (hrsv : rsvField base = 0) (himm : immField base = 0#8)
    (imm8 : BitVec 8) : decodeI mk (base ||| imm8.setWidth 16) = .ok (mk imm8.toInt) := by
  simp [decodeI, rsvField_or_operand, immField_or_operand himm, hrsv]

/-- The row of LED_CFG_OUT (R64). -/
theorem decode_of_opcField_ledCfgOut {w : Word} (h : opcField w = 0x9) : decode w = decodeI .ledCfgOut w := by
  simp [decode, h]

/-- The row of LED_ASSERT (R64). -/
theorem decode_of_opcField_ledAssert {w : Word} (h : opcField w = 0xA) : decode w = decodeI .ledAssert w := by
  simp [decode, h]

/-- The row of LED_DEASSERT (R64). -/
theorem decode_of_opcField_ledDeassert {w : Word} (h : opcField w = 0xB) : decode w = decodeI .ledDeassert w := by
  simp [decode, h]

/-- Every word of LED_CFG_OUT is legal (R63, R64). -/
theorem decode_ledCfgOut_word (imm8 : BitVec 8) :
    decode (0x9000 ||| imm8.setWidth 16) = .ok (.ledCfgOut imm8.toInt) := by
  rw [decode_of_opcField_ledCfgOut (opcField_or_operand _ _), decodeI_or_operand _ rfl rfl]

/-- Every word of LED_ASSERT is legal (R63, R64). -/
theorem decode_ledAssert_word (imm8 : BitVec 8) :
    decode (0xA000 ||| imm8.setWidth 16) = .ok (.ledAssert imm8.toInt) := by
  rw [decode_of_opcField_ledAssert (opcField_or_operand _ _), decodeI_or_operand _ rfl rfl]

/-- Every word of LED_DEASSERT is legal (R63, R64). -/
theorem decode_ledDeassert_word (imm8 : BitVec 8) :
    decode (0xB000 ||| imm8.setWidth 16) = .ok (.ledDeassert imm8.toInt) := by
  rw [decode_of_opcField_ledDeassert (opcField_or_operand _ _), decodeI_or_operand _ rfl rfl]

/-! ## The line an operand selects (R110) -/

/-- `line_at(p)` as a number is the floored remainder: for the positive divisor 8 the two remainders are one. -/
theorem lineAt_toNat_fmod (p : Int) : ((lineAt p).toNat : Int) = p.fmod 8 := by
  rw [lineAt_toNat, Int.fmod_eq_emod_of_nonneg p (by decide)]

/-- A line is the one selected if and only if its number is the floored remainder. -/
theorem lineAt_eq_iff_fmod (p : Int) (k : Line) : lineAt p = k ↔ (k.toNat : Int) = p.fmod 8 := by
  rw [lineAt_eq_iff, Int.fmod_eq_emod_of_nonneg p (by decide)]

/-- Sign extension does not move an operand modulo 8: it changes the value by a multiple of 256. -/
theorem toInt_emod_eight (imm8 : BitVec 8) : imm8.toInt % 8 = (imm8.toNat : Int) % 8 := by
  have h256 : imm8.toInt % 256 = (imm8.toNat : Int) % 256 := by
    rw [BitVec.toInt_eq_toNat_bmod]
    exact Int.bmod_emod
  omega

/-- The line an 8-bit operand selects is its low three bits. -/
theorem lineAt_operand (imm8 : BitVec 8) : lineAt imm8.toInt = imm8.extractLsb' 0 3 := by
  rw [lineAt_eq_iff, toInt_emod_eight, BitVec.extractLsb'_toNat, Nat.shiftRight_zero]
  exact Int.natCast_mod _ _

/-- Settles O20: the remainder for every integer, and the low three bits for an operand. -/
theorem lineAtIsTheFlooredRemainder : Obligations.LineAtIsTheFlooredRemainder :=
  ⟨lineAt_toNat_fmod, lineAt_operand⟩

/-! ## What the three operations write (R112 to R115) -/

/-- LED_CFG_OUT means `execLedCfgOut` (R112). -/
theorem exec_ledCfgOut (p : Int) (s : State) : exec (.ledCfgOut p) s = execLedCfgOut p s := rfl

/-- LED_ASSERT means `execLedAssert` (R113). -/
theorem exec_ledAssert (p : Int) (s : State) : exec (.ledAssert p) s = execLedAssert p s := rfl

/-- LED_DEASSERT means `execLedDeassert` (R114). -/
theorem exec_ledDeassert (p : Int) (s : State) : exec (.ledDeassert p) s = execLedDeassert p s := rfl

/-- R112 in a running block: one bit of `out_cfg` is written, whatever it was. -/
theorem execLedCfgOut_running (p : Int) {s : State} (hr : s.halted = false) :
    execLedCfgOut p s = .next { s with outCfg := putLine s.outCfg (lineAt p) true, report := .done } :=
  whenRunning_running _ hr

/-- R113 in a running block: the one write of the selected line. -/
theorem execLedAssert_running (p : Int) {s : State} (hr : s.halted = false) :
    execLedAssert p s = writeLed (lineAt p) true s :=
  whenRunning_running _ hr

/-- R114 in a running block: the one write of the selected line. -/
theorem execLedDeassert_running (p : Int) {s : State} (hr : s.halted = false) :
    execLedDeassert p s = writeLed (lineAt p) false s :=
  whenRunning_running _ hr

/-- Configuring one line sets that line's bit and keeps the other seven (R112). -/
theorem getLine_putLine_true (v : Ring) (k j : Line) :
    getLine (putLine v k true) j = (decide (j = k) || getLine v j) := by
  by_cases h : j = k <;> simp [h]

/-- A write of a configured line sets that latch and keeps the other seven, and the line's pin follows at once (R44,
R23). -/
theorem writeLed_effect (b : Bool) {s : State} {k : Line} (hcfg : getLine s.outCfg k = true) :
    ∃ led : Ring, writeLed k b s = .next { s with led := led, report := .done } ∧
      getLine led k = b ∧ (∀ j, j ≠ k → getLine led j = getLine s.led j) ∧
      ∀ undriven, getLine (State.ledOut { s with led := led } undriven) k = b := by
  have hlatch : getLine (putLine s.led k b) k = b := by simp
  refine ⟨putLine s.led k b, writeLed_configured b hcfg, hlatch, fun j hj => by simp [hj], fun undriven => ?_⟩
  exact (getLine_ledOut_configured (s := { s with led := putLine s.led k b }) undriven hcfg).trans hlatch

/-- Settles O17: the bit written is that of `lineAt p`, the floored remainder. -/
theorem ledCfgOutConfiguresOneLine : Obligations.LedCfgOutConfiguresOneLine := by
  refine ⟨decode_ledCfgOut_word, fun p s hr => ⟨putLine s.outCfg (lineAt p) true, ?_, fun k => ?_⟩⟩
  · rw [exec_ledCfgOut, execLedCfgOut_running p hr]
  · simp only [getLine_putLine_true, ← lineAt_eq_iff_fmod, eq_comm (a := k)]

/-- Settles O18, by whether the line is an output (`writeLed_effect`, `writeLed_unconfigured`). -/
theorem ledAssertRaisesOneLine : Obligations.LedAssertRaisesOneLine := by
  refine ⟨decode_ledAssert_word, fun p k s hr hk => ?_⟩
  rw [exec_ledAssert, execLedAssert_running p hr, (lineAt_eq_iff_fmod p k).mpr hk]
  exact ⟨writeLed_effect true, writeLed_unconfigured true⟩

/-- Settles O19, by whether the line is an output (`writeLed_effect`, `writeLed_unconfigured`). -/
theorem ledDeassertLowersOneLine : Obligations.LedDeassertLowersOneLine := by
  refine ⟨decode_ledDeassert_word, fun p k s hr hk => ?_⟩
  rw [exec_ledDeassert, execLedDeassert_running p hr, (lineAt_eq_iff_fmod p k).mpr hk]
  exact ⟨writeLed_effect false, writeLed_unconfigured false⟩

end Sys2Proof.Machine
end

section
/-!
The system operations in a running block (R125, R127), and the peripherals handle as an element that no other operation
reads or writes (R126).
-/

namespace Sys2Proof.Machine

/-! ## PERIPH_TAKE and DELAY -/

/-- PERIPH_TAKE means `execPeriphTake` (R125). -/
theorem exec_periphTake (s : State) : exec .periphTake s = execPeriphTake s := rfl

/-- DELAY means `execDelay` (R127). -/
theorem exec_delay (s : State) : exec .delay s = execDelay s := rfl

/-- R125, first half: a handle nobody holds is acquired. -/
theorem execPeriphTake_of_free {s : State} (hr : s.halted = false) (hfree : s.periphTaken = false) :
    execPeriphTake s = .next { s with periphTaken := true, report := .done } := by
  rw [execPeriphTake, whenRunning_running _ hr, hfree]
  rfl

/-- R125, second half: a handle already held raises PERIPH_TAKEN. -/
theorem execPeriphTake_of_taken {s : State} (hr : s.halted = false) (htaken : s.periphTaken = true) :
    execPeriphTake s = haltWith .periphTaken s := by
  rw [execPeriphTake, whenRunning_running _ hr, if_pos htaken]

/-- R127 in a running block: only the ports show that it was performed. -/
theorem execDelay_running {s : State} (hr : s.halted = false) : execDelay s = .next { s with report := .done } :=
  whenRunning_running _ hr

/-- Settles O15, by whether the handle is held. -/
theorem periphTakeSucceedsOnce : Obligations.PeriphTakeSucceedsOnce := by
  refine ⟨rfl, fun s hr => ⟨fun hfree => ?_, fun htaken => ?_⟩⟩
  · rw [exec_periphTake, execPeriphTake_of_free hr hfree]
  · rw [exec_periphTake, execPeriphTake_of_taken hr htaken, haltWith_eq, Fatal.code]

/-- Settles O16: the word is a row of R64, and a running block only reports. -/
theorem delayChangesNoState : Obligations.DelayChangesNoState := by
  refine ⟨rfl, fun s hr => ?_⟩
  rw [exec_delay, execDelay_running hr]

/-! ## The other operations and the handle (R126)

That an operation neither reads nor writes the handle is one equation: setting the handle first and then performing the
operation is the same as performing it and then setting the handle. -/

/-- The same state with `periph_taken` holding `b` (R24). -/
def State.setHandle (b : Bool) (s : State) : State := { s with periphTaken := b }

/-- The outcome with its next state, if there is one, changed by `f`. -/
def mapNext (f : State → State) : Result → Result
  | .next t => .next (f t)
  | .fault r => .fault r
  | .refused r => .refused r

/-- The deafness of a halted block (R74) does not depend on the handle. -/
theorem whenRunning_setHandle (b : Bool) (s : State) {k k' : Result} (hk : k' = mapNext (.setHandle b) k) :
    whenRunning (s.setHandle b) k' = mapNext (.setHandle b) (whenRunning s k) := by
  cases hr : s.halted
  · rw [whenRunning_running k hr, whenRunning_running k' (show (s.setHandle b).halted = false from hr), hk]
  · rw [whenRunning_halted k hr, whenRunning_halted k' (show (s.setHandle b).halted = true from hr)]
    rfl

/-- A read of the line does not depend on the handle and keeps it (R42, R43). -/
theorem readButton_setHandle (b : Bool) (s : State) :
    readButton (s.setHandle b) = ((readButton s).1, (readButton s).2.setHandle b) := by
  cases hc : s.inCfg
  · rw [readButton_floating hc, readButton_floating (show (s.setHandle b).inCfg = false from hc)]
    rfl
  · rw [readButton_configured hc, readButton_configured (show (s.setHandle b).inCfg = true from hc)]
    rfl

/-- A write to the ring does not depend on the handle and keeps it, performed or refused (R44, R115). -/
theorem writeLed_setHandle (b : Bool) (k : Line) (v : Bool) (s : State) :
    writeLed k v (s.setHandle b) = mapNext (.setHandle b) (writeLed k v s) := by
  cases hc : getLine s.outCfg k
  · rw [writeLed_unconfigured v hc, writeLed_unconfigured v (show getLine (s.setHandle b).outCfg k = false from hc)]
    rfl
  · rw [writeLed_configured v hc, writeLed_configured v (show getLine (s.setHandle b).outCfg k = true from hc)]
    rfl

/-- CELL_INIT and the handle: only the cell decides between the write and DOUBLE_INIT (R96). -/
theorem execCellInit_setHandle (b : Bool) (s : State) :
    execCellInit (s.setHandle b) = mapNext (.setHandle b) (execCellInit s) := by
  refine whenRunning_setHandle b s ?_
  rw [show (s.setHandle b).cell = s.cell from rfl]
  cases s.cell <;> rfl

/-- TAKE and the handle: only the cell decides between the response and USE_BEFORE_INIT (R98). -/
theorem execTake_setHandle (b : Bool) (s : State) :
    execTake (s.setHandle b) = mapNext (.setHandle b) (execTake s) := by
  refine whenRunning_setHandle b s ?_
  rw [show (s.setHandle b).cell = s.cell from rfl]
  cases s.cell <;> rfl

/-- POLL and the handle: the debounce machine steps on the one read of the line (R82). -/
theorem execPoll_setHandle (b : Bool) (s : State) :
    execPoll (s.setHandle b) = mapNext (.setHandle b) (execPoll s) := by
  refine whenRunning_setHandle b s ?_
  rw [readButton_setHandle]
  rfl

/-- Every operation but PERIPH_TAKE commutes with setting the handle (R126). -/
theorem exec_setHandle {i : Instr} (hi : i ≠ .periphTake) (b : Bool) (s : State) :
    exec i (s.setHandle b) = mapNext (.setHandle b) (exec i s) := by
  cases i with
  | periphTake => exact absurd rfl hi
  | btnCfgIn => exact whenRunning_setHandle b s rfl
  | btnSelIrq => exact whenRunning_setHandle b s rfl
  | btnEdgeEn => exact whenRunning_setHandle b s rfl
  | cellInit => exact execCellInit_setHandle b s
  | irqUnmask => exact whenRunning_setHandle b s rfl
  | poll => exact execPoll_setHandle b s
  | take => exact execTake_setHandle b s
  | ledCfgOut p => exact whenRunning_setHandle b s rfl
  | ledAssert p => exact whenRunning_setHandle b s (writeLed_setHandle b (lineAt p) true s)
  | ledDeassert p => exact whenRunning_setHandle b s (writeLed_setHandle b (lineAt p) false s)
  | delay => exact whenRunning_setHandle b s rfl

/-- Every operation but PERIPH_TAKE keeps the handle: setting it to what it already holds changes nothing before the
operation, so by `exec_setHandle` it changes nothing after. -/
theorem exec_periphTaken {i : Instr} (hi : i ≠ .periphTake) {s t : State} (h : exec i s = .next t) :
    t.periphTaken = s.periphTaken := by
  have hsame : exec i s = mapNext (.setHandle s.periphTaken) (exec i s) := exec_setHandle hi s.periphTaken s
  rw [h] at hsame
  injection hsame with ht
  calc t.periphTaken = (t.setHandle s.periphTaken).periphTaken := congrArg State.periphTaken ht
    _ = s.periphTaken := rfl

/-- Settles O53, by the operation's outcome: `exec_setHandle` gives the outcome with the handle replaced, and
`exec_periphTaken` what a next state holds. -/
theorem onlyPeriphTakeReadsTheHandle : Obligations.OnlyPeriphTakeReadsTheHandle := by
  intro i s b hi
  have hset : exec i { s with periphTaken := b } = mapNext (.setHandle b) (exec i s) := exec_setHandle hi b s
  cases h : exec i s with
  | next t => exact ⟨exec_periphTaken hi h, by rw [hset, h]; rfl⟩
  | refused r => rw [hset, h]; rfl
  | fault r => rw [hset, h]; rfl

end Sys2Proof.Machine
end

section
/-!
The control loop in a running block (R136 to R142, R145, R150): the ring's arithmetic, the phase each step performs, and
what the phases that issue an operation leave or refuse.
-/

namespace Sys2Proof.Machine

/-! ## The ring's arithmetic (R145) -/

/-- The floored remainder of the exact sum is the three-bit sum: the Direction's three bits are its value modulo 8. -/
theorem nextPos_eq_add (pos : Line) (dir : Direction) :
    nextPos pos dir = pos + (if dir.bit then 0b111#3 else 0b001#3) := by
  apply BitVec.eq_of_toNat_eq
  have hnext := nextPos_toNat pos dir
  rw [BitVec.toNat_add]
  cases dir with
  | plus =>
    simp only [Direction.toInt, Direction.bit, Bool.false_eq_true, if_false, BitVec.toNat_ofNat] at hnext ⊢
    omega
  | minus =>
    simp only [Direction.toInt, Direction.bit, if_true, BitVec.toNat_ofNat] at hnext ⊢
    omega

/-- The other Direction has the other value. -/
theorem Direction.neg_toInt (dir : Direction) : dir.neg.toInt = -dir.toInt := by
  cases dir <;> rfl

/-- The other Direction has the other bit. -/
theorem Direction.neg_bit (dir : Direction) : dir.neg.bit = !dir.bit := by
  cases dir <;> rfl

/-- Settles O24: `nextPos` is the cyclic indexer on the exact sum, so its value is `lineAt_toNat_fmod`. -/
theorem nextPositionIsTheRingSum : Obligations.NextPositionIsTheRingSum :=
  ⟨fun pos dir => ⟨lineAt_toNat_fmod _, nextPos_eq_add pos dir⟩, fun dir => ⟨dir.neg_toInt, dir.neg_bit⟩,
    lineAt_toNat_fmod⟩

/-! ## The phase a step performs (R136) -/

/-- A sequencer's turn is one step of the sequencer, taken with the ports idle (R50, R69). -/
theorem step_offer_seqStep (s : State) : step (s.offer .seqStep) = seqStep (s.reporting .idle) :=
  step_offer s .seqStep

section
variable {s : State} (hr : s.halted = false)
include hr

/-- Phase 0 is the query. -/
theorem seqStep_of_phase_zero (hp : s.phase = 0) : seqStep s = phaseQuery s := by
  simp [seqStep, hr, hp]

/-- Phase 3 is the assertion. -/
theorem seqStep_of_phase_three (hp : s.phase = 3) : seqStep s = phaseAssert s := by
  simp [seqStep, hr, hp]

/-- Phase 4 is the deassertion. -/
theorem seqStep_of_phase_four (hp : s.phase = 4) : seqStep s = phaseDeassert s := by
  simp [seqStep, hr, hp]

/-- Phase 5 is the sleep. -/
theorem seqStep_of_phase_five (hp : s.phase = 5) : seqStep s = phaseSleep s := by
  simp [seqStep, hr, hp]

end

/-! ## Phase 0, the query (R137) -/

/-- DESIGN = poll: the query is POLL. -/
theorem queryButton_poll {s : State} (hd : s.design = .poll) : queryButton s = execPoll s := by
  rw [queryButton, hd]

/-- DESIGN = edge: the query is TAKE. -/
theorem queryButton_edge {s : State} (hd : s.design = .edge) : queryButton s = execTake s := by
  rw [queryButton, hd]

/-- A query that responds gives `fresh` its response and ends the phase. -/
theorem phaseQuery_of_doneWith {s t : State} {b : Bool} (ht : t.halted = false)
    (hq : queryButton s = .next { t with report := .doneWith b }) :
    phaseQuery s = .next { t with fresh := b, phase := 1, report := .doneWith b } := by
  rw [phaseQuery, hq]
  exact thenUnlessHalted_running ht

section
variable {s : State} (hr : s.halted = false)
include hr

/-- The query of DESIGN = poll, in terms of its one read of the line. -/
theorem phaseQuery_poll {level : Bool} {n : Nat} (hd : s.design = .poll)
    (hread : readButton s = (level, { s with draws := n })) :
    phaseQuery s = .next { s with handled := level, draws := n, fresh := level && !s.handled, phase := 1,
                                  report := .doneWith (level && !s.handled) } := by
  exact phaseQuery_of_doneWith (t := { s with handled := level, draws := n }) hr
    ((queryButton_poll hd).trans (execPoll_of_readButton hr hread))

/-- The query of DESIGN = edge with a cell: its latch is the response. -/
theorem phaseQuery_edge_of_cell_some {pressed : Bool} (hd : s.design = .edge) (hc : s.cell = some pressed) :
    phaseQuery s =
      .next { s with cell := some false, fresh := pressed, phase := 1, report := .doneWith pressed } := by
  exact phaseQuery_of_doneWith (t := { s with cell := some false }) hr
    ((queryButton_edge hd).trans (execTake_of_cell_some hr hc))

/-- The query of DESIGN = edge with no cell: TAKE halts, and the rest of the phase is not performed (R150). -/
theorem phaseQuery_edge_of_cell_none (hd : s.design = .edge) (hc : s.cell = none) :
    phaseQuery s = haltWith .useBeforeInit s := by
  rw [phaseQuery, queryButton_edge hd, execTake_of_cell_none hr hc]
  exact thenUnlessHalted_halted rfl

end

/-- Settles O34, by DESIGN and then by whether TAKE has a cell. -/
theorem phaseZeroQueriesTheButton : Obligations.PhaseZeroQueriesTheButton := by
  intro s hr hp
  have hrun : (s.reporting .idle).halted = false := hr
  rw [step_offer_seqStep, seqStep_of_phase_zero hrun hp]
  refine ⟨fun hpoll => ?_, fun hedge => ⟨fun pressed hsome => ?_, fun hnone => ?_⟩⟩
  · obtain ⟨level, n, hread, hconfigured⟩ := readButton_spec (s.reporting .idle)
    exact ⟨level, n, hconfigured, phaseQuery_poll hrun hpoll hread⟩
  · exact phaseQuery_edge_of_cell_some hrun hedge hsome
  · exact phaseQuery_edge_of_cell_none hrun hedge hnone

/-! ## Phases 3 and 4, the two LED writes (R140, R141) -/

/-- Clearing one line clears that line's latch and keeps the other seven (R114). -/
theorem getLine_putLine_false (v : Ring) (k j : Line) :
    getLine (putLine v k false) j = (decide (j ≠ k) && getLine v j) := by
  by_cases h : j = k <;> simp [h]

/-- The rest of a step whose operation wrote a configured line. -/
theorem thenUnlessHalted_writeLed_configured {s : State} {k : Line} (b : Bool) (f : State → State)
    (hr : s.halted = false) (hcfg : getLine s.outCfg k = true) :
    thenUnlessHalted (writeLed k b s) f = .next (f { s with led := putLine s.led k b, report := .done }) := by
  rw [writeLed_configured b hcfg]
  exact thenUnlessHalted_running hr

/-- A step whose operation would write an unconfigured line is refused (R115). -/
theorem thenUnlessHalted_writeLed_unconfigured {s : State} {k : Line} (b : Bool) (f : State → State)
    (hcfg : getLine s.outCfg k = false) :
    thenUnlessHalted (writeLed k b s) f = .refused (.unconfiguredLine k) := by
  rw [writeLed_unconfigured b hcfg, thenUnlessHalted_refused]

/-- Phase 3 in a running block: the operand `nxt` selects its own line. -/
theorem phaseAssert_running {s : State} (hr : s.halted = false) :
    phaseAssert s = thenUnlessHalted (writeLed s.nxt true s) fun t => { t with phase := 4 } := by
  rw [phaseAssert, execLedAssert_running _ hr, lineAt_line]

/-- Phase 4 in a running block: the operand `pos` selects its own line. -/
theorem phaseDeassert_running {s : State} (hr : s.halted = false) :
    phaseDeassert s = thenUnlessHalted (writeLed s.pos false s) fun t => { t with pos := t.nxt, phase := 5 } := by
  rw [phaseDeassert, execLedDeassert_running _ hr, lineAt_line]

/-- Settles O37, by whether line `nxt` is an output. -/
theorem phaseThreeAssertsTheNewLine : Obligations.PhaseThreeAssertsTheNewLine := by
  intro s hr hp
  have hrun : (s.reporting .idle).halted = false := hr
  rw [step_offer_seqStep, seqStep_of_phase_three hrun hp, phaseAssert_running hrun]
  refine ⟨fun hcfg => ⟨putLine s.led s.nxt true, ?_, getLine_putLine_true s.led s.nxt⟩, fun hcfg => ?_⟩
  · exact thenUnlessHalted_writeLed_configured true _ hr hcfg
  · exact thenUnlessHalted_writeLed_unconfigured true _ hcfg

/-- Settles O38, by whether line `pos` is an output. -/
theorem phaseFourDeassertsTheOldLine : Obligations.PhaseFourDeassertsTheOldLine := by
  intro s hr hp
  have hrun : (s.reporting .idle).halted = false := hr
  rw [step_offer_seqStep, seqStep_of_phase_four hrun hp, phaseDeassert_running hrun]
  refine ⟨fun hcfg => ⟨putLine s.led s.pos false, ?_, getLine_putLine_false s.led s.pos⟩, fun hcfg => ?_⟩
  · exact thenUnlessHalted_writeLed_configured false _ hr hcfg
  · exact thenUnlessHalted_writeLed_unconfigured false _ hcfg

/-! ## Phase 5, the sleep (R142) -/

/-- Phase 5 in a running block: DELAY changes no state, then the phase wraps. -/
theorem phaseSleep_running {s : State} (hr : s.halted = false) :
    phaseSleep s = .next { s with phase := 0, report := .done } := by
  rw [phaseSleep, execDelay_running hr]
  exact thenUnlessHalted_running hr

/-- Settles O39: phase 5 is the sleep, and the ports then show its DELAY. -/
theorem phaseFiveSleepsAndWraps : Obligations.PhaseFiveSleepsAndWraps := by
  intro s hr hp
  have hrun : (s.reporting .idle).halted = false := hr
  rw [step_offer_seqStep, seqStep_of_phase_five hrun hp]
  exact phaseSleep_running hrun

end Sys2Proof.Machine
end

section
/-!
Exceptional turns in a running block: a word that matches no row of the opcode map (R66, R156), and the interrupt agent's
callback (R165, R166).
-/

namespace Sys2Proof.Machine

/-! ## An illegal word (R66, R156) -/

/-- A command turn issues its word, with the ports idle (R50, R69). -/
theorem step_offer_cmd (s : State) (w : Word) : step (s.offer (.cmd w)) = issue w (s.reporting .idle) :=
  step_offer s (.cmd w)

/-- A word that no row matches raises ILLEGAL_CMD in a running block, whichever of the three cases of R66 it is. -/
theorem issue_error {s : State} {w : Word} {e : Illegal} (h : decode w = .error e) (hr : s.halted = false) :
    issue w s = haltWith .illegalCmd s := by
  rw [issue, whenRunning_running _ hr, h]

/-- Settles O7, by what the decoder answers: an instruction is excluded, and each of its errors raises ILLEGAL_CMD. -/
theorem illegalWordHaltsWithCauseFour : Obligations.IllegalWordHaltsWithCauseFour := by
  intro s w hr hillegal
  have hrun : (s.reporting .idle).halted = false := hr
  cases hdec : decode w with
  | ok i => exact absurd hdec (hillegal i)
  | error e =>
    rw [step_offer_cmd, issue_error hdec hrun, haltWith_eq, Fatal.code]
    rfl

/-! ## The callback (R165, R166) -/

/-- The interrupt agent's turn is a delivery, taken with the ports idle (R50, R69). -/
theorem step_offer_callback (s : State) :
    step (s.offer .callback) = .next (deliver { s with report := .idle }) :=
  step_offer s .callback

/-- R166 with a cell: an enabled delivery clears `pending` and sets `pressed`, whatever `pressed` was. -/
theorem deliver_of_cell_some {s : State} {pressed : Bool} (hd : s.deliverable = true) (hc : s.cell = some pressed) :
    deliver s = { s with pending := false, cell := some true } := by
  rw [deliver, if_pos hd, callback, hc]

/-- R166 with no cell: an enabled delivery is USE_BEFORE_INIT, raised before `pending` is cleared. -/
theorem deliver_of_cell_none {s : State} (hd : s.deliverable = true) (hc : s.cell = none) :
    deliver s = raiseFatal .useBeforeInit s := by
  rw [deliver, if_pos hd, callback, hc]

/-- Settles O28: the hypotheses are the three conditions of R165 (`deliverable_iff`), which clearing the ports first leaves
as they are; then by whether the cell exists. -/
theorem callbackRunsWhenDeliverable : Obligations.CallbackRunsWhenDeliverable := by
  intro s hpending hunmask hr
  have hd : State.deliverable { s with report := .idle } = true := (deliverable_iff _).mpr ⟨hpending, hunmask, hr⟩
  refine ⟨fun pressed hsome => ?_, fun hnone => ?_⟩
  · rw [step_offer_callback, deliver_of_cell_some hd hsome]
  · rw [step_offer_callback, deliver_of_cell_none hd hnone, raiseFatal, Fatal.code]

end Sys2Proof.Machine
end

section
/-!
Reset (R185, R186): what the host's turn leaves, and the cell that the boot sequence then makes.
-/

namespace Sys2Proof.Machine

/-- R185: reset is taken in any state, halted or not; what the ports showed before plays no part in it. -/
theorem step_offer_reset (s : State) : step (s.offer .reset) = .next (hostReset s) :=
  step_offer s .reset

/-- After reset every latch is low (R186, D17). -/
theorem getLine_hostReset_led (s : State) (k : Line) : getLine (hostReset s).led k = false := by
  rw [State.hostReset_led]
  exact getLine_zero k

/-- After reset no line is an output (R186, D17). -/
theorem getLine_hostReset_outCfg (s : State) (k : Line) : getLine (hostReset s).outCfg k = false := by
  rw [State.hostReset_outCfg]
  exact getLine_zero k

/-- After reset the Direction is +1 (R186, D18). -/
theorem hostReset_dir_toInt (s : State) : (hostReset s).dir.toInt = 1 := by
  rw [State.hostReset_dir, Direction.toInt]

/-- After reset the Direction's bit is 0 (R186, D18). -/
theorem hostReset_dir_bit (s : State) : (hostReset s).dir.bit = false := by
  rw [State.hostReset_dir, Direction.bit]

/-- After reset CELL_INIT makes the cell, `pressed` clear: the block runs again and the cell is gone, even if it had been
made before (R96, R186). -/
theorem exec_cellInit_hostReset (s : State) :
    exec .cellInit (hostReset s) = .next { hostReset s with cell := some false, report := .done } := by
  rw [exec_cellInit]
  exact execCellInit_of_cell_none (State.hostReset_halted s) (State.hostReset_cell s)

/-- Settles O31: the next state is `hostReset s`, and its elements are the rows of R186, in the statement's order. -/
theorem resetGivesTheResetValues : Obligations.ResetGivesTheResetValues := by
  intro s
  exact ⟨hostReset s, step_offer_reset s,
    s.hostReset_handled, s.hostReset_cell, s.hostReset_pending, s.hostReset_srcSel, s.hostReset_edgeEn,
    s.hostReset_unmask, s.hostReset_inCfg, getLine_hostReset_led s, getLine_hostReset_outCfg s,
    s.hostReset_periphTaken, s.hostReset_halted, s.hostReset_cause,
    s.hostReset_pos, hostReset_dir_toInt s, hostReset_dir_bit s, s.hostReset_fresh, s.hostReset_nxt,
    s.hostReset_phase, s.hostReset_line, exec_cellInit_hostReset s⟩

end Sys2Proof.Machine
end

section
/-!
The decoder, the encoder and the opcode map (R61 to R66): which words decode, said once, and from it both round trips, the
rows of R64 and the three cases of R66.
-/

namespace Sys2Proof

/-! ## Which words decode (R62 to R65) -/

/-- A format Z word decodes if nothing but the opcode is set (R62). -/
theorem decodeZ_of_fields {w : Word} (i : Instr) (hrsv : rsvField w = 0) (himm : immField w = 0) :
    decodeZ i w = .ok i := by
  rw [decodeZ, if_neg (not_not.mpr hrsv), if_neg (not_not.mpr himm)]

/-- A format I word decodes if `rsv` is clear, whatever the operand (R63). -/
theorem decodeI_of_fields {w : Word} (mk : Int → Instr) {p : Int} (hrsv : rsvField w = 0)
    (himm : immField w = BitVec.ofInt 8 p) (hfits : positionFits p = true) : decodeI mk w = .ok (mk p) := by
  rw [decodeI, if_neg (not_not.mpr hrsv), himm, toInt_ofInt_of_fits hfits]

/-- A word with an instruction's opcode, 0000 and its operand bits decodes to it, if the instruction is well formed. -/
theorem decode_of_fields {w : Word} {i : Instr} (hrsv : rsvField w = 0) (hopc : opcField w = i.opcode)
    (himm : immField w = i.imm8) (hwf : i.wf = true) : decode w = .ok i := by
  cases i with
  | ledCfgOut p => exact (Machine.decode_of_opcField_ledCfgOut hopc).trans (decodeI_of_fields _ hrsv himm hwf)
  | ledAssert p => exact (Machine.decode_of_opcField_ledAssert hopc).trans (decodeI_of_fields _ hrsv himm hwf)
  | ledDeassert p => exact (Machine.decode_of_opcField_ledDeassert hopc).trans (decodeI_of_fields _ hrsv himm hwf)
  | _ => rw [decode, hopc]; exact decodeZ_of_fields _ hrsv himm

/-- The fields of an encoded word (R61), for every instruction at once. -/
theorem encode_fields (i : Instr) :
    opcField (encode i) = i.opcode ∧ rsvField (encode i) = 0 ∧ immField (encode i) = i.imm8 :=
  Laws.fields_of_append i.opcode i.imm8

/-- A word decodes to an instruction if and only if its three fields are the instruction's and the instruction is well
formed (R61 to R65). -/
theorem decode_eq_ok_iff {w : Word} {i : Instr} :
    decode w = .ok i ↔ rsvField w = 0 ∧ opcField w = i.opcode ∧ immField w = i.imm8 ∧ i.wf = true :=
  ⟨decode_ok, fun ⟨hrsv, hopc, himm, hwf⟩ => decode_of_fields hrsv hopc himm hwf⟩

/-- A word that the decoder rejects decodes to no instruction. -/
theorem decode_ne_ok_of_error {w : Word} {e : Illegal} (h : decode w = .error e) (i : Instr) : decode w ≠ .ok i := by
  rw [h]
  exact nofun

/-- Settles O1: the word has the instruction's fields (`encode_fields`), which is what the decoder asks for. -/
theorem decodeEncodeRoundTrip : Obligations.DecodeEncodeRoundTrip := by
  intro i hwf
  obtain ⟨hopc, hrsv, himm⟩ := encode_fields i
  exact decode_of_fields hrsv hopc himm hwf

/-- A legal word is the word of the instruction it decodes to: the three fields are all of it. -/
theorem encode_of_decode {w : Word} {i : Instr} (h : decode w = .ok i) : encode i = w := by
  obtain ⟨hrsv, hopc, himm, -⟩ := decode_ok h
  obtain ⟨hopc', hrsv', himm'⟩ := encode_fields i
  exact word_ext (hopc'.trans hopc.symm) (hrsv'.trans hrsv.symm) (himm'.trans himm.symm)

/-- Settles O2. -/
theorem encodeDecodeRoundTrip : Obligations.EncodeDecodeRoundTrip := by
  intro w i h
  obtain ⟨-, -, -, hwf⟩ := decode_ok h
  exact ⟨hwf, encode_of_decode h⟩

/-! ## The rows of the opcode map (R64) -/

/-- A word selects a row if and only if its three fields, each under the row's mask, are those of the row's match. -/
theorem selects_iff_fields (r : OpcodeRow) (w : Word) :
    r.selects w = true ↔
      opcField w &&& opcField r.mask = opcField r.matchBits ∧ rsvField w &&& rsvField r.mask = rsvField r.matchBits ∧
        immField w &&& immField r.mask = immField r.matchBits := by
  simp only [OpcodeRow.selects, beq_iff_eq, opcField, rsvField, immField, ← field_and]
  exact ⟨fun h => by rw [h]; exact ⟨rfl, rfl, rfl⟩, fun ⟨ho, hr, hi⟩ => word_ext ho hr hi⟩

/-- The row of an instruction: its opcode's word, with the operand bits masked out in format I alone (R62 to R64). -/
def Instr.row : Instr → OpcodeRow
  | .periphTake => ⟨0x1, 0x1000, 0xFFFF⟩
  | .btnCfgIn => ⟨0x2, 0x2000, 0xFFFF⟩
  | .btnSelIrq => ⟨0x3, 0x3000, 0xFFFF⟩
  | .btnEdgeEn => ⟨0x4, 0x4000, 0xFFFF⟩
  | .cellInit => ⟨0x5, 0x5000, 0xFFFF⟩
  | .irqUnmask => ⟨0x6, 0x6000, 0xFFFF⟩
  | .poll => ⟨0x7, 0x7000, 0xFFFF⟩
  | .take => ⟨0x8, 0x8000, 0xFFFF⟩
  | .ledCfgOut _ => ⟨0x9, 0x9000, 0xFF00⟩
  | .ledAssert _ => ⟨0xA, 0xA000, 0xFF00⟩
  | .ledDeassert _ => ⟨0xB, 0xB000, 0xFF00⟩
  | .delay => ⟨0xC, 0xC000, 0xFFFF⟩

/-- Every instruction's row is one of the map's. -/
theorem row_mem_opcodeMap (i : Instr) : i.row ∈ opcodeMap := by
  cases i <;> simp [Instr.row, opcodeMap]

/-- Every instruction's row has its opcode. -/
theorem row_opc (i : Instr) : i.row.opc = i.opcode := by
  cases i <;> rfl

/-- A word with an instruction's opcode, 0000 and its operand bits selects the instruction's row. -/
theorem row_selects {w : Word} {i : Instr} (hrsv : rsvField w = 0) (hopc : opcField w = i.opcode)
    (himm : immField w = i.imm8) : i.row.selects w = true := by
  rw [selects_iff_fields, hopc, hrsv, himm]
  cases i <;> dsimp only [Instr.row, Instr.opcode, Instr.imm8]
  case ledCfgOut p => exact ⟨rfl, rfl, BitVec.and_zero⟩
  case ledAssert p => exact ⟨rfl, rfl, BitVec.and_zero⟩
  case ledDeassert p => exact ⟨rfl, rfl, BitVec.and_zero⟩
  all_goals exact ⟨rfl, rfl, rfl⟩

/-- In every row of the map the mask covers opcode and reserved field, and the match is the row's opcode and 0000. -/
theorem opcodeMap_fields : ∀ r ∈ opcodeMap, opcField r.mask = BitVec.allOnes 4 ∧ rsvField r.mask = BitVec.allOnes 4 ∧
    opcField r.matchBits = r.opc ∧ rsvField r.matchBits = 0 := by
  decide

/-- A word that selects a row of the map has the row's opcode and 0000. -/
theorem fields_of_selects {r : OpcodeRow} (hr : r ∈ opcodeMap) {w : Word} (h : r.selects w = true) :
    opcField w = r.opc ∧ rsvField w = 0 := by
  obtain ⟨hopc, hrsv, -⟩ := (selects_iff_fields r w).mp h
  obtain ⟨hmaskOpc, hmaskRsv, hmatchOpc, hmatchRsv⟩ := opcodeMap_fields r hr
  rw [hmaskOpc, hmatchOpc, BitVec.and_allOnes] at hopc
  rw [hmaskRsv, hmatchRsv, BitVec.and_allOnes] at hrsv
  exact ⟨hopc, hrsv⟩

/-- Settles O3: both sides say what the three fields are (`decode_eq_ok_iff`, `row_selects`, `fields_of_selects`). -/
theorem decodeFollowsOpcodeMap : Obligations.DecodeFollowsOpcodeMap := by
  intro w i
  rw [decode_eq_ok_iff]
  constructor
  · rintro ⟨hrsv, hopc, himm, hwf⟩
    exact ⟨i.row, row_mem_opcodeMap i, row_selects hrsv hopc himm, (row_opc i).symm, himm.symm, hwf⟩
  · rintro ⟨r, hmem, hsel, hopc, himm, hwf⟩
    obtain ⟨hrow, hrsv⟩ := fields_of_selects hmem hsel
    exact ⟨hrsv, hrow.trans hopc.symm, himm.symm, hwf⟩

/-! ## The illegal words (R66) -/

/-- A format I opcode with 0000 is legal with every operand. -/
theorem decodes_of_formatI {w : Word} (hopc : opcField w ∈ [0x9#4, 0xA#4, 0xB#4]) (hrsv : rsvField w = 0) :
    ∃ i, decode w = .ok i := by
  have himm : immField w = BitVec.ofInt 8 (immField w).toInt := BitVec.ofInt_toInt.symm
  have hfits := positionFits_toInt (immField w)
  simp only [List.mem_cons, List.not_mem_nil, or_false] at hopc
  obtain h | h | h := hopc
  · exact ⟨.ledCfgOut _, decode_of_fields hrsv h himm hfits⟩
  · exact ⟨.ledAssert _, decode_of_fields hrsv h himm hfits⟩
  · exact ⟨.ledDeassert _, decode_of_fields hrsv h himm hfits⟩

/-- The instructions without an operand, in the order of R64. -/
def formatZ : List Instr :=
  [.periphTake, .btnCfgIn, .btnSelIrq, .btnEdgeEn, .cellInit, .irqUnmask, .poll, .take, .delay]

/-- They have no operand bits, and are well formed (R62). -/
theorem formatZ_operand : ∀ i ∈ formatZ, i.imm8 = 0 ∧ i.wf = true := by
  decide

/-- A format Z opcode with 0000 and no operand bits is legal. -/
theorem decodes_of_formatZ {w : Word} (hopc : opcField w ∈ formatZ.map Instr.opcode) (hrsv : rsvField w = 0)
    (himm : immField w = 0) : ∃ i, decode w = .ok i := by
  obtain ⟨i, hi, hopcode⟩ := List.mem_map.mp hopc
  obtain ⟨hnone, hwf⟩ := formatZ_operand i hi
  exact ⟨i, decode_of_fields hrsv hopcode.symm (himm.trans hnone.symm) hwf⟩

/-- The sixteen opcodes: the four that are no operation's, the three of format I and the nine of format Z (R64, R66). -/
theorem opcode_cases : ∀ o : BitVec 4,
    o ∈ [0x0#4, 0xD#4, 0xE#4, 0xF#4] ∨ o ∈ [0x9#4, 0xA#4, 0xB#4] ∨ o ∈ formatZ.map Instr.opcode := by
  decide

/-- An instruction's opcode is none of the four that are no operation's, and if it is none of format I's three, the
instruction has no operand bits. -/
theorem opcode_legal (i : Instr) :
    i.opcode ∉ [0x0#4, 0xD#4, 0xE#4, 0xF#4] ∧ (i.opcode ∉ [0x9#4, 0xA#4, 0xB#4] → i.imm8 = 0) := by
  cases i <;> simp [Instr.opcode, Instr.imm8]

/-- A word decodes if and only if it is in none of the three cases of R66. -/
theorem decodes_iff (w : Word) :
    (∃ i, decode w = .ok i) ↔
      opcField w ∉ [0x0#4, 0xD#4, 0xE#4, 0xF#4] ∧ rsvField w = 0 ∧
        (opcField w ∉ [0x9#4, 0xA#4, 0xB#4] → immField w = 0) := by
  constructor
  · rintro ⟨i, h⟩
    obtain ⟨hrsv, hopc, himm, -⟩ := decode_ok h
    obtain ⟨hlegal, hoperand⟩ := opcode_legal i
    rw [hopc, himm]
    exact ⟨hlegal, hrsv, hoperand⟩
  · rintro ⟨hlegal, hrsv, hoperand⟩
    obtain h | h | h := opcode_cases (opcField w)
    · exact absurd h hlegal
    · exact decodes_of_formatI h hrsv
    · by_cases hI : opcField w ∈ [0x9#4, 0xA#4, 0xB#4]
      · exact decodes_of_formatI hI hrsv
      · exact decodes_of_formatZ h hrsv (hoperand hI)

/-- Settles O4: the negation of `decodes_iff`. -/
theorem illegalWordsAreTheThreeCases : Obligations.IllegalWordsAreTheThreeCases := by
  intro w
  have h := not_congr (decodes_iff w)
  rw [not_exists] at h
  rw [h, not_and_or, not_and_or, not_not, Classical.not_imp]
  rfl

/-- Settles O5: each word, read by the decoder. -/
theorem wordsOfTheTableDecode : Obligations.WordsOfTheTableDecode :=
  ⟨rfl, rfl, rfl, rfl, rfl, rfl⟩

end Sys2Proof
end

section
/-!
The ring's positions, names and hops (R45, R116, R146).
-/

namespace Sys2Proof.Machine

/-- Settles O21: eight lines make the ring, so adding a multiple of 8 does not move the remainder. -/
theorem lineAtWrapsEveryEight : Obligations.LineAtWrapsEveryEight := by
  intro p n
  rw [lineAt_eq_iff, lineAt_toNat, Int.add_mul_emod_self_left]

/-! ## The ring's names (R45) -/

/-- The eight names in their cyclic order. -/
def ringOrder : List RingName := [.nw, .n, .ne, .e, .se, .s, .sw, .w]

/-- The name of a position: the one that stands there in the cyclic order. -/
def ringNameAt (k : Line) : RingName := ringOrder[k.toNat]'k.isLt

/-- The name of a position stands for it. -/
theorem position_ringNameAt : ∀ k : Line, (ringNameAt k).position = k := by
  decide

/-- The position of a name has that name. -/
theorem ringNameAt_position (r : RingName) : ringNameAt r.position = r := by
  cases r <;> rfl

/-- Settles O22: names and positions are in one-to-one correspondence. -/
theorem ringNamesAreThePositions : Obligations.RingNamesAreThePositions := by
  refine ⟨rfl, fun k => ⟨ringNameAt k, position_ringNameAt k, fun r hr => ?_⟩⟩
  rw [← hr, ringNameAt_position]

/-! ## Hops (R146) -/

/-- A Direction's three bits are not 0: a hop moves. -/
theorem nextPos_ne (pos : Line) (dir : Direction) : nextPos pos dir ≠ pos := by
  rw [nextPos_eq_add, ne_eq, add_eq_left]
  cases dir <;> decide

/-- The three bits of the two Directions add up to 0: a hop the other way leads back. -/
theorem nextPos_neg (pos : Line) (dir : Direction) : nextPos (nextPos pos dir) dir.neg = pos := by
  rw [nextPos_eq_add, nextPos_eq_add, add_assoc, add_eq_left]
  cases dir <;> decide

/-- Settles O25. -/
theorem hopsMoveAndReverse : Obligations.HopsMoveAndReverse :=
  fun pos dir => ⟨nextPos_ne pos dir, nextPos_neg pos dir⟩

end Sys2Proof.Machine
end

section
/-!
The turns that change little: a word of a running block is its operation, the interrupt agent and the floating line where
they are not admitted, and every turn of a halted block (R74, R90, R92, R159, R165).
-/

namespace Sys2Proof.Machine

/-- A legal word is its operation, halted or not: a halted block ignores both (R65, R74). -/
theorem issue_of_decode {s : State} {w : Word} {i : Instr} (h : decode w = .ok i) : issue w s = exec i s := by
  cases hr : s.halted with
  | false => exact issue_ok h hr
  | true => rw [issue_halted w hr, exec_halted i hr]

/-- Settles O6: the word is at the head of the turns to come (`step_cons`), and means its operation. -/
theorem stepRunsDecodedInstruction : Obligations.StepRunsDecodedInstruction := by
  intro s w rest i hinputs hdecode
  rw [step_cons hinputs]
  exact issue_of_decode hdecode

/-! ## Spurious edges and the interrupt agent (R92, R165) -/

/-- A spurious turn is the floating line's edge, taken with the ports idle (R50, R69). -/
theorem step_offer_spurious (s : State) :
    step (s.offer .spurious) = .next (spuriousEdge { s with report := .idle }) :=
  step_offer s .spurious

/-- R92's condition bit by bit. -/
theorem mayLatchSpurious_eq (s : State) :
    s.mayLatchSpurious = (!s.inCfg && s.srcSel && s.edgeEn && !s.halted) := by
  simp only [State.mayLatchSpurious, State.armed, Bool.and_assoc]

/-- Settles O27: the turn writes `pending` alone, under R92's condition, which does not read the ports. -/
theorem spuriousEdgesNeedAFloatingArmedLine : Obligations.SpuriousEdgesNeedAFloatingArmedLine := by
  intro s
  rw [step_offer_spurious, spuriousEdge_eq, mayLatchSpurious_eq]

/-- Where delivery is not enabled the interrupt agent does nothing. -/
theorem deliver_of_not_deliverable {s : State} (h : s.deliverable = false) : deliver s = s := by
  rw [deliver, h]
  rfl

/-- Settles O29: the three conditions are R165's (`deliverable_iff`), and none of them reads the ports. -/
theorem callbackTurnIdlesWhenNotDeliverable : Obligations.CallbackTurnIdlesWhenNotDeliverable := by
  intro s h
  have hidle : State.deliverable { s with report := .idle } = false :=
    Bool.eq_false_iff.mpr fun hd => h ((deliverable_iff _).mp hd)
  rw [step_offer_callback, deliver_of_not_deliverable hidle]

/-! ## The halted block (R74, R159) -/

/-- A halted sequencer takes no step (R159). -/
theorem seqStep_halted {s : State} (h : s.halted = true) : seqStep s = .next s := by
  rw [seqStep, if_pos h]

/-- Settles O30, by the turn: a word is ignored, the sequencer stands still, the line moves without an edge being latched,
and neither a callback nor a spurious edge is possible. -/
theorem haltedBlockMovesOnlyTheLine : Obligations.HaltedBlockMovesOnlyTheLine := by
  intro s a hh ha
  have hidle : (s.reporting .idle).halted = true := hh
  cases a with
  | cmd w =>
    rw [step_offer_cmd, issue_halted w hidle]
    rfl
  | seqStep =>
    rw [step_offer_seqStep, seqStep_halted hidle]
    rfl
  | lineSet v =>
    rw [lineSetMovesTheLineAndLatchesEdges s v, hh]
    simp [lineAfter, haltedReport]
  | callback =>
    rw [callbackTurnIdlesWhenNotDeliverable s (by simp [hh])]
    rfl
  | spurious =>
    rw [spuriousEdgesNeedAFloatingArmedLine s, hh]
    simp [lineAfter, haltedReport]
  | reset => exact absurd rfl ha

end Sys2Proof.Machine
end

section
/-!
What an operation leaves of a running block, one constructor per rule (R81, R82, R94 to R98, R112 to R114, R125, R127,
R157), and the statements about all twelve operations at once.
-/

namespace Sys2Proof.Machine

/-! ## The effects of the operations -/

/-- The next states an operation can leave of the running block `s`: what is written, and under which condition. -/
inductive OpEffect (s : State) : Instr → State → Prop where
  | periphTake (hfree : s.periphTaken = false) : OpEffect s .periphTake { s with periphTaken := true, report := .done }
  | btnCfgIn : OpEffect s .btnCfgIn { s with inCfg := true, report := .done }
  | btnSelIrq : OpEffect s .btnSelIrq { s with srcSel := true, report := .done }
  | btnEdgeEn : OpEffect s .btnEdgeEn { s with edgeEn := true, report := .done }
  | cellInit (hcell : s.cell = none) : OpEffect s .cellInit { s with cell := some false, report := .done }
  | irqUnmask : OpEffect s .irqUnmask { s with unmask := true, report := .done }
  | poll (level : Bool) (n : Nat) (hread : s.inCfg = true → level = s.line ∧ n = s.draws) :
      OpEffect s .poll { s with handled := level, draws := n, report := .doneWith (level && !s.handled) }
  | take (pressed : Bool) (hcell : s.cell = some pressed) :
      OpEffect s .take { s with cell := some false, report := .doneWith pressed }
  | ledCfgOut (p : Int) :
      OpEffect s (.ledCfgOut p) { s with outCfg := putLine s.outCfg (lineAt p) true, report := .done }
  | ledAssert (p : Int) (hcfg : getLine s.outCfg (lineAt p) = true) :
      OpEffect s (.ledAssert p) { s with led := putLine s.led (lineAt p) true, report := .done }
  | ledDeassert (p : Int) (hcfg : getLine s.outCfg (lineAt p) = true) :
      OpEffect s (.ledDeassert p) { s with led := putLine s.led (lineAt p) false, report := .done }
  | delay : OpEffect s .delay { s with report := .done }
  | useBeforeInit (hcell : s.cell = none) :
      OpEffect s .take { s with halted := true, cause := Fatal.useBeforeInit.code, report := .halt .useBeforeInit }
  | doubleInit (hcell : s.cell ≠ none) :
      OpEffect s .cellInit { s with halted := true, cause := Fatal.doubleInit.code, report := .halt .doubleInit }
  | alreadyTaken (htaken : s.periphTaken = true) :
      OpEffect s .periphTake { s with halted := true, cause := Fatal.periphTaken.code, report := .halt .periphTaken }

/-- An operation's next state is one of its effects (`exec_next`). -/
theorem opEffect_of_exec {i : Instr} {s t : State} (hr : s.halted = false) (h : exec i s = .next t) :
    OpEffect s i t := by
  obtain ⟨rfl, hfree, rfl⟩ | ⟨rfl, rfl⟩ | ⟨rfl, rfl⟩ | ⟨rfl, rfl⟩ | ⟨rfl, hcell, rfl⟩ | ⟨rfl, rfl⟩ |
    ⟨rfl, level, n, hread, rfl⟩ | ⟨rfl, pressed, hcell, rfl⟩ | ⟨p, rfl, rfl⟩ |
    ⟨p, b, ⟨rfl, rfl⟩ | ⟨rfl, rfl⟩, hcfg, rfl⟩ | ⟨rfl, rfl⟩ |
    ⟨c, rfl, ⟨rfl, hcell, rfl⟩ | ⟨rfl, hcell, rfl⟩ | ⟨rfl, htaken, rfl⟩⟩ := exec_next hr h
  all_goals constructor <;> assumption

/-- What the ports showed before an operation plays no part in its effect. -/
theorem OpEffect.of_reporting {i : Instr} {s t : State} {r : Report} (h : OpEffect (s.reporting r) i t) :
    OpEffect s i t := by
  cases h <;> constructor <;> assumption

/-- What the ports show after an operation of a running block (R31, R69, R73): its outcome, never `ignored`; a response
after POLL and TAKE only; `halt` exactly if it halted the block. -/
theorem OpEffect.report_cases {i : Instr} {s t : State} (hr : s.halted = false) (h : OpEffect s i t) :
    t.report ≠ .ignored ∧ t.report ≠ .idle ∧ ((∃ b, t.report = .doneWith b) → i = .poll ∨ i = .take) ∧
      ((∃ c, t.report = .halt c) ↔ t.halted = true) := by
  cases h <;> simp [hr]

/-- An operation halts a running block only by one of the fatal errors of R157 that operations raise; otherwise the block
is still running. -/
theorem OpEffect.halted_cases {i : Instr} {s t : State} (hr : s.halted = false) (h : OpEffect s i t) :
    t.halted = true ∧
      ((i = .take ∧ s.cell = none ∧ t = { s with halted := true, cause := 1, report := .halt .useBeforeInit }) ∨
        (i = .cellInit ∧ s.cell ≠ none ∧ t = { s with halted := true, cause := 2, report := .halt .doubleInit }) ∨
        (i = .periphTake ∧ s.periphTaken = true ∧
          t = { s with halted := true, cause := 3, report := .halt .periphTaken })) ∨
    t.halted = false ∧
      ¬((i = .take ∧ s.cell = none) ∨ (i = .cellInit ∧ s.cell ≠ none) ∨ (i = .periphTake ∧ s.periphTaken = true)) := by
  cases h with
  | useBeforeInit hcell => exact .inl ⟨rfl, .inl ⟨rfl, hcell, rfl⟩⟩
  | doubleInit hcell => exact .inl ⟨rfl, .inr (.inl ⟨rfl, hcell, rfl⟩)⟩
  | alreadyTaken htaken => exact .inl ⟨rfl, .inr (.inr ⟨rfl, htaken, rfl⟩)⟩
  | periphTake hfree => exact .inr ⟨hr, by simp [hfree]⟩
  | cellInit hcell => exact .inr ⟨hr, by simp [hcell]⟩
  | take pressed hcell => exact .inr ⟨hr, by simp [hcell]⟩
  | _ => exact .inr ⟨hr, by simp⟩

/-- Settles O32: the three ways to halt are the table's three rows (`OpEffect.halted_cases`). -/
theorem fatalErrorsFollowTheTable : Obligations.FatalErrorsFollowTheTable := by
  intro i s t hr h
  obtain ⟨ht, ⟨rfl, hcell, heq⟩ | ⟨rfl, hcell, heq⟩ | ⟨rfl, htaken, heq⟩⟩ | ⟨ht, hnone⟩ :=
    (opEffect_of_exec hr h).halted_cases hr
  · exact ⟨by simp [ht, hcell], fun _ => ⟨.useBeforeInit, heq, by simp [Fatal.code]⟩⟩
  · exact ⟨by simp [ht, hcell], fun _ => ⟨.doubleInit, heq, by simp [Fatal.code]⟩⟩
  · exact ⟨by simp [ht, htaken], fun _ => ⟨.periphTaken, heq, by simp [Fatal.code]⟩⟩
  · refine ⟨iff_of_false (Bool.eq_false_iff.mp ht) hnone, fun h => ?_⟩
    exact absurd h (Bool.eq_false_iff.mp ht)

/-! ## Which operations have a next state (R73, R115) -/

/-- A write of one line has a next state, or is refused because the line is no output (R44, R115). -/
theorem writeLed_next_or_refused (k : Line) (b : Bool) (s : State) :
    (∃ t, writeLed k b s = .next t) ∨
      getLine s.outCfg k = false ∧ writeLed k b s = .refused (.unconfiguredLine k) := by
  cases hcfg : getLine s.outCfg k with
  | true => exact .inl ⟨_, writeLed_configured b hcfg⟩
  | false => exact .inr ⟨rfl, writeLed_unconfigured b hcfg⟩

/-- Every operation of a running block has a next state, but for an LED write of a line that is no output. -/
theorem exec_next_or_refused (i : Instr) {s : State} (hr : s.halted = false) :
    (∃ t, exec i s = .next t) ∨
      ∃ p, (i = .ledAssert p ∨ i = .ledDeassert p) ∧ getLine s.outCfg (lineAt p) = false ∧
        exec i s = .refused (.unconfiguredLine (lineAt p)) := by
  cases i with
  | periphTake =>
    cases hp : s.periphTaken with
    | false => exact .inl ⟨_, execPeriphTake_of_free hr hp⟩
    | true => exact .inl ⟨_, execPeriphTake_of_taken hr hp⟩
  | cellInit =>
    cases hc : s.cell with
    | none => exact .inl ⟨_, execCellInit_of_cell_none hr hc⟩
    | some pressed => exact .inl ⟨_, execCellInit_of_cell_some hr hc⟩
  | take =>
    cases hc : s.cell with
    | none => exact .inl ⟨_, execTake_of_cell_none hr hc⟩
    | some pressed => exact .inl ⟨_, execTake_of_cell_some hr hc⟩
  | ledAssert p =>
    rw [exec_ledAssert, execLedAssert_running p hr]
    exact (writeLed_next_or_refused (lineAt p) true s).imp_right fun h => ⟨p, .inl rfl, h⟩
  | ledDeassert p =>
    rw [exec_ledDeassert, execLedDeassert_running p hr]
    exact (writeLed_next_or_refused (lineAt p) false s).imp_right fun h => ⟨p, .inr rfl, h⟩
  | poll => exact .inl ⟨_, execPoll_of_readButton hr rfl⟩
  | _ => exact .inl ⟨_, whenRunning_running _ hr⟩

/-- Settles O33. A halted block ignores the word (O30) and an illegal word halts (O7); a legal one is its operation, which
reports what `OpEffect.report_cases` says or is an LED write that is refused. -/
theorem everyWordHasOneOfFiveOutcomes : Obligations.EveryWordHasOneOfFiveOutcomes := by
  intro s w
  cases hr : s.halted with
  | true => exact .inl ⟨_, haltedBlockMovesOnlyTheLine s (.cmd w) hr (by simp), by simp [haltedReport]⟩
  | false =>
    have hrun : (s.reporting .idle).halted = false := hr
    cases hdec : decode w with
    | error e =>
      exact .inl ⟨_, illegalWordHaltsWithCauseFour s w hr (decode_ne_ok_of_error hdec), by simp⟩
    | ok i =>
      rw [step_offer_cmd, issue_of_decode hdec]
      obtain ⟨t, ht⟩ | ⟨p, hi, -, hrefused⟩ := exec_next_or_refused i hrun
      · obtain ⟨hignored, hidle, hresponse, hhalt⟩ := (opEffect_of_exec hrun ht).report_cases hrun
        refine .inl ⟨t, ht, by simp [hignored], hidle, fun hb => ?_, by simp [hhalt]⟩
        rw [← encode_of_decode hdec]
        exact (hresponse hb).imp (congrArg encode) (congrArg encode)
      · exact .inr ⟨rfl, ⟨lineAt p, hrefused⟩, p, hi.imp (congrArg _) (congrArg _)⟩

/-! ## The operations and `pending` (R15)

As for the handle (R126), that no operation reads or writes the flag is one equation. -/

/-- The same state with `pending` holding `b` (R15). -/
def State.setPending (b : Bool) (s : State) : State := { s with pending := b }

/-- The deafness of a halted block (R74) does not depend on the flag. -/
theorem whenRunning_setPending (b : Bool) (s : State) {k k' : Result} (hk : k' = mapNext (.setPending b) k) :
    whenRunning (s.setPending b) k' = mapNext (.setPending b) (whenRunning s k) := by
  rw [whenRunning, whenRunning, hk, apply_ite (mapNext (.setPending b))]
  rfl

/-- A read of the line does not depend on the flag and keeps it (R42, R43). -/
theorem readButton_setPending (b : Bool) (s : State) :
    readButton (s.setPending b) = ((readButton s).1, (readButton s).2.setPending b) := by
  cases hc : s.inCfg with
  | false => rw [readButton_floating hc, readButton_floating (s := s.setPending b) hc]; rfl
  | true => rw [readButton_configured hc, readButton_configured (s := s.setPending b) hc]; rfl

/-- A write to the ring does not depend on the flag and keeps it, performed or refused (R44, R115). -/
theorem writeLed_setPending (b : Bool) (k : Line) (v : Bool) (s : State) :
    writeLed k v (s.setPending b) = mapNext (.setPending b) (writeLed k v s) := by
  rw [writeLed, writeLed, apply_ite (mapNext (.setPending b))]
  rfl

/-- Every operation commutes with setting `pending` (R15): the handle and the cell, where an operation decides by them, are
not touched by it. -/
theorem exec_setPending (i : Instr) (b : Bool) (s : State) :
    exec i (s.setPending b) = mapNext (.setPending b) (exec i s) := by
  have hhandle : (s.setPending b).periphTaken = s.periphTaken := rfl
  have hcell : (s.setPending b).cell = s.cell := rfl
  cases i with
  | periphTake => exact whenRunning_setPending b s (by rw [hhandle]; cases s.periphTaken <;> rfl)
  | cellInit => exact whenRunning_setPending b s (by rw [hcell]; cases s.cell <;> rfl)
  | take => exact whenRunning_setPending b s (by rw [hcell]; cases s.cell <;> rfl)
  | poll => exact whenRunning_setPending b s (by rw [readButton_setPending]; rfl)
  | ledAssert p => exact whenRunning_setPending b s (writeLed_setPending b (lineAt p) true s)
  | ledDeassert p => exact whenRunning_setPending b s (writeLed_setPending b (lineAt p) false s)
  | _ => exact whenRunning_setPending b s rfl

/-- No operation writes `pending`. -/
theorem OpEffect.pending {i : Instr} {s t : State} (h : OpEffect s i t) : t.pending = s.pending := by
  cases h <;> rfl

/-- No operation writes `pending`, halted or not. -/
theorem exec_pending {i : Instr} {s t : State} (h : exec i s = .next t) : t.pending = s.pending := by
  cases hr : s.halted with
  | false => exact (opEffect_of_exec hr h).pending
  | true =>
    rw [exec_halted i hr] at h
    injection h with h
    rw [← h, State.reporting_pending]

/-- Settles O52, by the operation's outcome (`exec_setPending`, `exec_pending`). -/
theorem operationsDoNotTouchPending : Obligations.OperationsDoNotTouchPending := by
  intro i s b
  have hset : exec i { s with pending := b } = mapNext (.setPending b) (exec i s) := exec_setPending i b s
  cases h : exec i s with
  | next t => exact ⟨exec_pending h, by rw [hset, h]; rfl⟩
  | refused r => rw [hset, h]; rfl
  | fault r => rw [hset, h]; rfl

end Sys2Proof.Machine
end

section
/-!
Phases 1 and 2 of the sequencer (R138, R139), and what one turn short of reset can do to a state, one constructor per rule:
the case split from which every invariant below is read off.
-/

namespace Sys2Proof.Machine

/-! ## Phases 1 and 2 -/

section
variable {s : State} (hr : s.halted = false)
include hr

/-- Phase 1 is the flip. -/
theorem seqStep_of_phase_one (hp : s.phase = 1) : seqStep s = phaseFlip s := by
  simp [seqStep, hr, hp]

/-- Phase 2 is the computation of the next position. -/
theorem seqStep_of_phase_two (hp : s.phase = 2) : seqStep s = phaseCompute s := by
  simp [seqStep, hr, hp]

/-- The step of phase 1. -/
theorem step_of_phase_one (hp : s.phase = 1) :
    step (s.offer .seqStep) =
      .next { s with dir := if s.fresh then s.dir.neg else s.dir, phase := 2, report := .idle } := by
  rw [step_offer_seqStep, seqStep_of_phase_one (s := s.reporting .idle) hr hp]
  rfl

/-- The step of phase 2. -/
theorem step_of_phase_two (hp : s.phase = 2) :
    step (s.offer .seqStep) = .next { s with nxt := nextPos s.pos s.dir, phase := 3, report := .idle } := by
  rw [step_offer_seqStep, seqStep_of_phase_two (s := s.reporting .idle) hr hp]
  rfl

end

/-- Settles O35: the other Direction has the negated value. -/
theorem phaseOneFlipsOnAFreshPress : Obligations.PhaseOneFlipsOnAFreshPress := by
  intro s hr hp
  refine ⟨_, step_of_phase_one hr hp, ?_⟩
  rw [apply_ite Direction.toInt, Direction.neg_toInt]

/-- Settles O36: `nextPos` is the cyclic indexer on the exact sum. -/
theorem phaseTwoComputesTheNextPosition : Obligations.PhaseTwoComputesTheNextPosition := by
  intro s hr hp
  exact ⟨_, step_of_phase_two hr hp, lineAt_toNat_fmod _⟩

/-! ## The effects of one turn -/

/-- The next states one turn short of reset can leave of `s`. The cases after `halted` are those of a running block. -/
inductive TurnEffect (s : State) : Turn → State → Prop where
  /-- R74, R90, R159. -/
  | halted (a : Turn) (hh : s.halted = true) :
      TurnEffect s a { s with line := lineAfter a s.line, report := haltedReport a }
  /-- R65. -/
  | word (w : Word) (i : Instr) (t : State) (hr : s.halted = false) (hdec : decode w = .ok i)
      (heff : OpEffect s i t) : TurnEffect s (.cmd w) t
  /-- R66. -/
  | illegal (w : Word) (e : Illegal) (hr : s.halted = false) (hdec : decode w = .error e) :
      TurnEffect s (.cmd w) { s with halted := true, cause := 4, report := .halt .illegalCmd }
  /-- R137, DESIGN = poll. -/
  | queryPoll (level : Bool) (n : Nat) (hr : s.halted = false) (hphase : s.phase = 0) (hdesign : s.design = .poll)
      (hread : s.inCfg = true → level = s.line ∧ n = s.draws) :
      TurnEffect s .seqStep { s with handled := level, draws := n, fresh := level && !s.handled, phase := 1,
                                     report := .doneWith (level && !s.handled) }
  /-- R137, DESIGN = edge. -/
  | queryTake (pressed : Bool) (hr : s.halted = false) (hphase : s.phase = 0) (hdesign : s.design = .edge)
      (hcell : s.cell = some pressed) :
      TurnEffect s .seqStep { s with cell := some false, fresh := pressed, phase := 1, report := .doneWith pressed }
  /-- R150. -/
  | queryHalt (hr : s.halted = false) (hphase : s.phase = 0) (hdesign : s.design = .edge) (hcell : s.cell = none) :
      TurnEffect s .seqStep { s with halted := true, cause := 1, report := .halt .useBeforeInit }
  /-- R138. -/
  | flip (hr : s.halted = false) (hphase : s.phase = 1) :
      TurnEffect s .seqStep { s with dir := if s.fresh then s.dir.neg else s.dir, phase := 2, report := .idle }
  /-- R139. -/
  | compute (hr : s.halted = false) (hphase : s.phase = 2) :
      TurnEffect s .seqStep { s with nxt := nextPos s.pos s.dir, phase := 3, report := .idle }
  /-- R140. -/
  | assert (hr : s.halted = false) (hphase : s.phase = 3) (hcfg : getLine s.outCfg s.nxt = true) :
      TurnEffect s .seqStep { s with led := putLine s.led s.nxt true, phase := 4, report := .done }
  /-- R141. -/
  | deassert (hr : s.halted = false) (hphase : s.phase = 4) (hcfg : getLine s.outCfg s.pos = true) :
      TurnEffect s .seqStep
        { s with led := putLine s.led s.pos false, pos := s.nxt, phase := 5, report := .done }
  /-- R142. -/
  | sleep (hr : s.halted = false) (hphase : s.phase = 5) :
      TurnEffect s .seqStep { s with phase := 0, report := .done }
  /-- R90, R91. -/
  | lineSet (v : Bool) (hr : s.halted = false) :
      TurnEffect s (.lineSet v)
        { s with line := v, report := .idle, pending := s.pending || (risingEdge s.line v && s.armed) }
  /-- R165. -/
  | callbackIdle (hd : s.deliverable = false) : TurnEffect s .callback { s with report := .idle }
  /-- R166. -/
  | callbackRun (pressed : Bool) (hd : s.deliverable = true) (hcell : s.cell = some pressed) :
      TurnEffect s .callback { s with pending := false, cell := some true, report := .idle }
  /-- R166 with no cell. -/
  | callbackHalt (hd : s.deliverable = true) (hcell : s.cell = none) :
      TurnEffect s .callback { s with halted := true, cause := 1, report := .idle }
  /-- R92. -/
  | spurious (hr : s.halted = false) :
      TurnEffect s .spurious { s with report := .idle, pending := s.pending || s.mayLatchSpurious }

section
variable {s t : State} (hr : s.halted = false)
include hr

/-- A word of a running block (R65, R66). -/
theorem turnEffect_of_cmd {w : Word} (h : step (s.offer (.cmd w)) = .next t) : TurnEffect s (.cmd w) t := by
  have hrun : (s.reporting .idle).halted = false := hr
  rw [step_offer_cmd] at h
  cases hdec : decode w with
  | ok i =>
    rw [issue_of_decode hdec] at h
    exact .word w i t hr hdec (opEffect_of_exec hrun h).of_reporting
  | error e =>
    rw [issue_error hdec hrun] at h
    injection h with h
    exact h ▸ .illegal w e hr hdec

/-- The query of a running block (R137, R150). -/
theorem turnEffect_of_query (hphase : s.phase = 0) (h : step (s.offer .seqStep) = .next t) :
    TurnEffect s .seqStep t := by
  obtain ⟨hpoll, hedge⟩ := phaseZeroQueriesTheButton s hr hphase
  cases hdesign : s.design with
  | poll =>
    obtain ⟨level, n, hread, hstep⟩ := hpoll hdesign
    injection hstep.symm.trans h with h
    exact h ▸ .queryPoll level n hr hphase hdesign hread
  | edge =>
    obtain ⟨hsome, hnone⟩ := hedge hdesign
    cases hcell : s.cell with
    | some pressed =>
      injection (hsome pressed hcell).symm.trans h with h
      exact h ▸ .queryTake pressed hr hphase hdesign hcell
    | none =>
      injection (hnone hcell).symm.trans h with h
      exact h ▸ .queryHalt hr hphase hdesign hcell

/-- A sequencer's step of a running block, by its phase (`seqStep_next`). -/
theorem turnEffect_of_seqStep (h : step (s.offer .seqStep) = .next t) : TurnEffect s .seqStep t := by
  have hstep : seqStep (s.reporting .idle) = .next t := (step_offer_seqStep s).symm.trans h
  obtain ⟨hphase, -⟩ | ⟨hphase, rfl⟩ | ⟨hphase, rfl⟩ | ⟨hphase, hcfg, rfl⟩ | ⟨hphase, hcfg, rfl⟩ |
    ⟨hphase, rfl⟩ := seqStep_next (s := s.reporting .idle) hr hstep
  · exact turnEffect_of_query hr hphase h
  · exact .flip hr hphase
  · exact .compute hr hphase
  · exact .assert hr hphase hcfg
  · exact .deassert hr hphase hcfg
  · exact .sleep hr hphase

end

/-- The interrupt agent's turn (R165, R166). -/
theorem turnEffect_of_callback {s t : State} (h : step (s.offer .callback) = .next t) : TurnEffect s .callback t := by
  cases hd : s.deliverable with
  | false =>
    have hnot := mt (deliverable_iff s).mpr (Bool.eq_false_iff.mp hd)
    injection (callbackTurnIdlesWhenNotDeliverable s hnot).symm.trans h with h
    exact h ▸ .callbackIdle hd
  | true =>
    obtain ⟨hpending, hunmask, hr⟩ := (deliverable_iff s).mp hd
    obtain ⟨hsome, hnone⟩ := callbackRunsWhenDeliverable s hpending hunmask hr
    cases hcell : s.cell with
    | some pressed =>
      injection (hsome pressed hcell).symm.trans h with h
      exact h ▸ .callbackRun pressed hd hcell
    | none =>
      injection (hnone hcell).symm.trans h with h
      exact h ▸ .callbackHalt hd hcell

/-- What one turn short of reset leaves is one of its effects. -/
theorem turnEffect_of_step {s t : State} {a : Turn} (ha : a ≠ .reset) (h : step (s.offer a) = .next t) :
    TurnEffect s a t := by
  cases hr : s.halted with
  | true =>
    injection (haltedBlockMovesOnlyTheLine s a hr ha).symm.trans h with h
    exact h ▸ .halted a hr
  | false =>
    cases a with
    | cmd w => exact turnEffect_of_cmd hr h
    | seqStep => exact turnEffect_of_seqStep hr h
    | lineSet v =>
      rw [step_offer_lineSet, lineSet_eq] at h
      injection h with h
      exact h ▸ .lineSet v hr
    | callback => exact turnEffect_of_callback h
    | spurious =>
      rw [step_offer_spurious, spuriousEdge_eq] at h
      injection h with h
      exact h ▸ .spurious hr
    | reset => exact absurd rfl ha

end Sys2Proof.Machine
end

section
/-!
What every step keeps, and which turn alone can change an element (R12 to R29, R33): each read off the effects of a turn.
-/

namespace Sys2Proof.Machine

/-! ## Which turn writes an element -/

/-- A halted block stays halted, with its cause, short of reset (R159). -/
theorem halted_of_step {s t : State} {a : Turn} (ha : a ≠ .reset) (h : step (s.offer a) = .next t)
    (hh : s.halted = true) : t.halted = true ∧ t.cause = s.cause := by
  injection (haltedBlockMovesOnlyTheLine s a hh ha).symm.trans h with h
  subst h
  exact ⟨hh, rfl⟩

/-- A word of LED_CFG_OUT is its opcode word with some operand, whose line is the operand's low three bits (R63, R110). -/
theorem ledCfgOut_word {w : Word} {p : Int} (h : decode w = .ok (.ledCfgOut p)) :
    ∃ imm8 : BitVec 8, w = 0x9000 ||| imm8.setWidth 16 ∧ lineAt p = imm8.extractLsb' 0 3 := by
  obtain ⟨hrsv, hopc, -, -⟩ := decode_ok h
  have hopc : opcField w = opcField 0x9000 := hopc
  have hrsv : rsvField w = rsvField 0x9000 := hrsv
  have hw : w = 0x9000 ||| (immField w).setWidth 16 :=
    word_ext (hopc.trans (opcField_or_operand _ _).symm) (hrsv.trans (rsvField_or_operand _ _).symm)
      (immField_or_operand rfl _).symm
  have hp : p = (immField w).toInt := by
    have hdec := decode_ledCfgOut_word (immField w)
    rw [← hw, h] at hdec
    injection hdec with hdec
    injection hdec
  exact ⟨immField w, hw, by rw [hp, lineAt_operand]⟩

/-- Settles O48, by the turn's effect: only the six configuring operations write a configuration bit, and their words are
those of R64 (`encode_of_decode`). -/
theorem configurationBitsOnlyRise : Obligations.ConfigurationBitsOnlyRise := by
  intro s t a ha h
  have hhalted := halted_of_step ha h
  cases turnEffect_of_step ha h with
  | word w i t hr hdec heff =>
    have hw : Turn.cmd w = .cmd (encode i) := congrArg Turn.cmd (encode_of_decode hdec).symm
    cases heff with
    | btnCfgIn => exact ⟨.inr ⟨hw, rfl⟩, .inl rfl, .inl rfl, .inl rfl, .inl rfl, .inl rfl, hhalted⟩
    | btnSelIrq => exact ⟨.inl rfl, .inr ⟨hw, rfl⟩, .inl rfl, .inl rfl, .inl rfl, .inl rfl, hhalted⟩
    | btnEdgeEn => exact ⟨.inl rfl, .inl rfl, .inr ⟨hw, rfl⟩, .inl rfl, .inl rfl, .inl rfl, hhalted⟩
    | irqUnmask => exact ⟨.inl rfl, .inl rfl, .inl rfl, .inr ⟨hw, rfl⟩, .inl rfl, .inl rfl, hhalted⟩
    | periphTake => exact ⟨.inl rfl, .inl rfl, .inl rfl, .inl rfl, .inr ⟨hw, rfl⟩, .inl rfl, hhalted⟩
    | ledCfgOut p =>
      obtain ⟨imm8, himm, hline⟩ := ledCfgOut_word hdec
      exact ⟨.inl rfl, .inl rfl, .inl rfl, .inl rfl, .inl rfl,
        .inr ⟨imm8, congrArg Turn.cmd himm, hline ▸ rfl⟩, hhalted⟩
    | _ => exact ⟨.inl rfl, .inl rfl, .inl rfl, .inl rfl, .inl rfl, .inl rfl, hhalted⟩
  | _ => exact ⟨.inl rfl, .inl rfl, .inl rfl, .inl rfl, .inl rfl, .inl rfl, hhalted⟩

/-- Settles O49, by the turn's effect: the cell is written by CELL_INIT, TAKE and the callback alone, and where a TAKE or a
callback finds what it writes, nothing changes. -/
theorem cellChangesOnlyAsR13AndR14Say : Obligations.CellChangesOnlyAsR13AndR14Say := by
  intro s t a ha h hne
  cases turnEffect_of_step ha h with
  | word w i t hr hdec heff =>
    have hw : Turn.cmd w = .cmd (encode i) := congrArg Turn.cmd (encode_of_decode hdec).symm
    cases heff with
    | cellInit hcell => exact .inl ⟨hw, hcell, rfl⟩
    | take pressed hcell =>
      cases pressed with
      | false => exact absurd hcell.symm hne
      | true => exact .inr (.inr ⟨.inl hw, hcell, rfl⟩)
    | _ => exact absurd rfl hne
  | queryTake pressed hr hphase hdesign hcell =>
    cases pressed with
    | false => exact absurd hcell.symm hne
    | true => exact .inr (.inr ⟨.inr ⟨rfl, hphase, hdesign⟩, hcell, rfl⟩)
  | callbackRun pressed hd hcell =>
    obtain ⟨hpending, -, -⟩ := (deliverable_iff s).mp hd
    cases pressed with
    | false => exact .inr (.inl ⟨rfl, hcell, rfl, hpending, rfl⟩)
    | true => exact absurd hcell.symm hne
  | _ => exact absurd rfl hne

/-- A line that differs after a write is the one written, and holds the value written (R111). -/
theorem getLine_putLine_changed {v : Ring} {k j : Line} {b : Bool} (h : getLine (putLine v k b) j ≠ getLine v j) :
    j = k ∧ getLine (putLine v k b) j = b := by
  rw [getLine_putLine] at h ⊢
  split at h
  · next hjk => exact ⟨hjk, if_pos hjk⟩
  · exact absurd rfl h

/-- `handled` is written by POLL alone, issued or made by phase 0 (R12). -/
theorem TurnEffect.handled {s t : State} {a : Turn} (h : TurnEffect s a t) (hne : t.handled ≠ s.handled) :
    a = .cmd 0x7000 ∨ (a = .seqStep ∧ s.phase = 0 ∧ s.design = .poll) := by
  cases h with
  | word w i t hr hdec heff =>
    cases heff with
    | poll level n hread => exact .inl (congrArg Turn.cmd (encode_of_decode hdec).symm)
    | _ => exact absurd rfl hne
  | queryPoll level n hr hphase hdesign hread => exact .inr ⟨rfl, hphase, hdesign⟩
  | _ => exact absurd rfl hne

/-- A latch is written by an LED write alone, issued or made by phases 3 and 4, on its own line (R21, R119). -/
theorem TurnEffect.led {s t : State} {a : Turn} {j : Line} (h : TurnEffect s a t)
    (hne : getLine t.led j ≠ getLine s.led j) :
    (∃ w p, a = .cmd w ∧ j = lineAt p ∧
      ((decode w = .ok (.ledAssert p) ∧ getLine t.led j = true) ∨
        (decode w = .ok (.ledDeassert p) ∧ getLine t.led j = false))) ∨
    (a = .seqStep ∧ s.phase = 3 ∧ j = s.nxt ∧ getLine t.led j = true) ∨
    (a = .seqStep ∧ s.phase = 4 ∧ j = s.pos ∧ getLine t.led j = false) := by
  cases h with
  | word w i t hr hdec heff =>
    cases heff with
    | ledAssert p hcfg =>
      obtain ⟨hj, hb⟩ := getLine_putLine_changed hne
      exact .inl ⟨w, p, rfl, hj, .inl ⟨hdec, hb⟩⟩
    | ledDeassert p hcfg =>
      obtain ⟨hj, hb⟩ := getLine_putLine_changed hne
      exact .inl ⟨w, p, rfl, hj, .inr ⟨hdec, hb⟩⟩
    | _ => exact absurd rfl hne
  | assert hr hphase =>
    obtain ⟨hj, hb⟩ := getLine_putLine_changed hne
    exact .inr (.inl ⟨rfl, hphase, hj, hb⟩)
  | deassert hr hphase =>
    obtain ⟨hj, hb⟩ := getLine_putLine_changed hne
    exact .inr (.inr ⟨rfl, hphase, hj, hb⟩)
  | _ => exact absurd rfl hne

/-- Settles O50. -/
theorem handledAndLatchesHaveOneWriter : Obligations.HandledAndLatchesHaveOneWriter := by
  intro s t a ha h
  have heffect := turnEffect_of_step ha h
  exact ⟨heffect.handled, fun j => heffect.led⟩

/-- No operation writes the sequencer's state or the design. -/
theorem OpEffect.sequencer {i : Instr} {s t : State} (h : OpEffect s i t) :
    t.dir = s.dir ∧ t.pos = s.pos ∧ t.nxt = s.nxt ∧ t.fresh = s.fresh ∧ t.phase = s.phase ∧ t.design = s.design := by
  cases h <;> exact ⟨rfl, rfl, rfl, rfl, rfl, rfl⟩

/-- The Direction is written in phase 1 alone, on a fresh press (R27). -/
theorem TurnEffect.dir {s t : State} {a : Turn} (h : TurnEffect s a t) (hne : t.dir ≠ s.dir) :
    a = .seqStep ∧ s.phase = 1 ∧ s.fresh = true ∧ t.dir = s.dir.neg := by
  cases h with
  | word w i t hr hdec heff => exact absurd heff.sequencer.1 hne
  | flip hr hphase =>
    cases hfresh : s.fresh with
    | true => exact ⟨rfl, hphase, rfl, rfl⟩
    | false => exact absurd (by simp [hfresh]) hne
  | _ => exact absurd rfl hne

/-- The phase is written by the sequencer alone, which moves it on by one, from 5 back to 0 (R29, R136). -/
theorem TurnEffect.phase {s t : State} {a : Turn} (h : TurnEffect s a t) (hne : t.phase ≠ s.phase) :
    a = .seqStep ∧ t.phase.toNat = (s.phase.toNat + 1) % 6 := by
  cases h with
  | word w i t hr hdec heff =>
    obtain ⟨-, -, -, -, hphase, -⟩ := heff.sequencer
    exact absurd hphase hne
  | queryPoll _ _ hr hphase => exact ⟨rfl, by rw [hphase]; rfl⟩
  | queryTake _ hr hphase => exact ⟨rfl, by rw [hphase]; rfl⟩
  | flip hr hphase => exact ⟨rfl, by rw [hphase]; rfl⟩
  | compute hr hphase => exact ⟨rfl, by rw [hphase]; rfl⟩
  | assert hr hphase => exact ⟨rfl, by rw [hphase]; rfl⟩
  | deassert hr hphase => exact ⟨rfl, by rw [hphase]; rfl⟩
  | sleep hr hphase => exact ⟨rfl, by rw [hphase]; rfl⟩
  | _ => exact absurd rfl hne

/-- `pos` is written in phase 4, `nxt` in phase 2 and `fresh` in phase 0 alone; nothing writes the design (R6, R26, R28). -/
theorem TurnEffect.sequencer {s t : State} {a : Turn} (h : TurnEffect s a t) :
    (t.pos ≠ s.pos → a = .seqStep ∧ s.phase = 4 ∧ t.pos = s.nxt) ∧
    (t.nxt ≠ s.nxt → a = .seqStep ∧ s.phase = 2) ∧
    (t.fresh ≠ s.fresh → a = .seqStep ∧ s.phase = 0) ∧
    t.design = s.design := by
  cases h with
  | word w i t hr hdec heff =>
    obtain ⟨-, hpos, hnxt, hfresh, -, hdesign⟩ := heff.sequencer
    exact ⟨absurd hpos, absurd hnxt, absurd hfresh, hdesign⟩
  | queryPoll _ _ hr hphase => exact ⟨absurd rfl, absurd rfl, fun _ => ⟨rfl, hphase⟩, rfl⟩
  | queryTake _ hr hphase => exact ⟨absurd rfl, absurd rfl, fun _ => ⟨rfl, hphase⟩, rfl⟩
  | compute hr hphase => exact ⟨absurd rfl, fun _ => ⟨rfl, hphase⟩, absurd rfl, rfl⟩
  | deassert hr hphase => exact ⟨fun _ => ⟨rfl, hphase, rfl⟩, absurd rfl, absurd rfl, rfl⟩
  | _ => exact ⟨absurd rfl, absurd rfl, absurd rfl, rfl⟩

/-- Settles O51, element by element. -/
theorem sequencerStateIsTheSequencers : Obligations.SequencerStateIsTheSequencers := by
  intro s t a ha h
  have heffect := turnEffect_of_step ha h
  obtain ⟨hpos, hnxt, hfresh, hdesign⟩ := heffect.sequencer
  exact ⟨heffect.dir, hpos, hnxt, hfresh, heffect.phase, hdesign⟩

/-! ## The invariants of R33 -/

/-- The codes of R157 are 1 to 4. -/
theorem Fatal.code_range (c : Fatal) : c.code ≠ 0 ∧ c.code.toNat ≤ 4 := by
  cases c <;> decide

/-- A turn keeps `halted` and `cause`, or raises a fatal error (R158). -/
theorem TurnEffect.halt_cases {s t : State} {a : Turn} (h : TurnEffect s a t) :
    (t.halted = s.halted ∧ t.cause = s.cause) ∨ (t.halted = true ∧ ∃ c : Fatal, t.cause = c.code) := by
  cases h with
  | word w i t hr hdec heff =>
    cases heff with
    | useBeforeInit hcell => exact .inr ⟨rfl, .useBeforeInit, rfl⟩
    | doubleInit hcell => exact .inr ⟨rfl, .doubleInit, rfl⟩
    | alreadyTaken htaken => exact .inr ⟨rfl, .periphTaken, rfl⟩
    | _ => exact .inl ⟨rfl, rfl⟩
  | illegal w e hr hdec => exact .inr ⟨rfl, .illegalCmd, rfl⟩
  | queryHalt hr hphase hdesign hcell => exact .inr ⟨rfl, .useBeforeInit, rfl⟩
  | callbackHalt hd hcell => exact .inr ⟨rfl, .useBeforeInit, rfl⟩
  | _ => exact .inl ⟨rfl, rfl⟩

/-- `pending` rises only in an armed detector (R91, R92). -/
theorem TurnEffect.pending {s t : State} {a : Turn} (h : TurnEffect s a t) (ht : t.pending = true) :
    s.pending = true ∨ s.armed = true := by
  cases h with
  | word w i t hr hdec heff => exact .inl (heff.pending.symm.trans ht)
  | lineSet v hr =>
    obtain h | h := Bool.or_eq_true_iff.mp ht
    · exact .inl h
    · exact .inr (Bool.and_eq_true_iff.mp h).2
  | spurious hr =>
    obtain h | h := Bool.or_eq_true_iff.mp ht
    · exact .inl h
    · exact .inr (Bool.and_eq_true_iff.mp h).2
  | callbackRun pressed hd hcell => exact absurd ht Bool.false_ne_true
  | _ => exact .inl ht

/-- An armed detector is selected and enabled (R91). -/
theorem srcSel_edgeEn_of_armed {s : State} (h : s.armed = true) : s.srcSel = true ∧ s.edgeEn = true := by
  simp only [State.armed, Bool.and_eq_true] at h
  exact h.1

/-- Settles O43: in the reset state there is nothing to keep apart. -/
theorem resetIsLegal : Obligations.ResetIsLegal :=
  ⟨by decide, by decide, by decide, fun h => absurd h Bool.false_ne_true⟩

/-- A reset turn restores the invariants: what they read has its reset value (R186). -/
theorem legal_hostReset (s : State) : Legal (hostReset s) :=
  ⟨resetIsLegal.causeZero, resetIsLegal.causeCode, resetIsLegal.phaseRange, resetIsLegal.pendingArmed⟩

/-- Every turn keeps the invariants of R33. -/
theorem legal_of_step_offer {s t : State} {a : Turn} (hs : Legal s) (h : step (s.offer a) = .next t) : Legal t := by
  by_cases ha : a = .reset
  · subst ha
    injection (step_offer_reset s).symm.trans h with h
    exact h ▸ legal_hostReset s
  have heffect := turnEffect_of_step ha h
  obtain ⟨-, hsrcSel, hedgeEn, -⟩ := configurationBitsOnlyRise s t a ha h
  have hphase : t.phase.toNat ≤ 5 := by
    by_cases hp : t.phase = s.phase
    · exact hp ▸ hs.phaseRange
    · have := (heffect.phase hp).2
      omega
  have hpending (ht : t.pending = true) : t.srcSel = true ∧ t.edgeEn = true := by
    obtain ⟨hsel, hen⟩ := (heffect.pending ht).elim hs.pendingArmed srcSel_edgeEn_of_armed
    exact ⟨hsrcSel.elim (·.trans hsel) (·.2), hedgeEn.elim (·.trans hen) (·.2)⟩
  obtain ⟨hhalted, hcause⟩ | ⟨hhalted, c, hcause⟩ := heffect.halt_cases
  · exact ⟨by rw [hhalted, hcause]; exact hs.causeZero, hcause ▸ hs.causeCode, hphase, hpending⟩
  · obtain ⟨hnonzero, hcode⟩ := c.code_range
    rw [← hcause] at hnonzero hcode
    exact ⟨iff_of_false hnonzero (by simp [hhalted]), hcode, hphase, hpending⟩

/-- Settles O44: a step is idle, which changes nothing the invariants read, or a turn (`step_cases`). -/
theorem everyStepKeepsLegal : Obligations.EveryStepKeepsLegal := by
  intro s t hs h
  obtain hidle | ⟨a, u, rfl, hturn⟩ := step_cases s
  · injection hidle.symm.trans h with h
    subst h
    exact ⟨hs.causeZero, hs.causeCode, hs.phaseRange, hs.pendingArmed⟩
  · have hu : Legal { s with inputs := s.inputs.tail } :=
      ⟨hs.causeZero, hs.causeCode, hs.phaseRange, hs.pendingArmed⟩
    exact legal_of_step_offer hu (hturn.symm.trans h)

end Sys2Proof.Machine
end

section
/-!
Recorded runs: a run is its first turn and the rest, runs put together are a run, and what every turn keeps the run keeps.
-/

namespace Sys2Proof.Machine

/-- A turn with a next state is recorded before the turns that follow. -/
theorem record_cons {s t u : State} {a : Turn} {as : List Turn} {es : List Entry} (hstep : step (s.offer a) = .next t)
    (hrest : record as t = some (es, u)) : record (a :: as) s = some (⟨a, s, t⟩ :: es, u) := by
  rw [record, hstep]
  simp only [hrest]

/-- A recorded run begins with a turn that has a next state, from which the rest was recorded. -/
theorem record_cons_inv {s u : State} {a : Turn} {as : List Turn} {es : List Entry}
    (h : record (a :: as) s = some (es, u)) :
    ∃ t es', step (s.offer a) = .next t ∧ record as t = some (es', u) ∧ es = ⟨a, s, t⟩ :: es' := by
  rw [record] at h
  split at h
  · next t hstep =>
    split at h
    · next es' u' hrest =>
      injection h with h
      injection h with hes hu
      exact ⟨t, es', hstep, hu ▸ hrest, hes.symm⟩
    · cases h
  · cases h
  · cases h

/-- Two runs, the second from where the first ends, are one run. -/
theorem record_append {as bs : List Turn} {s t u : State} {es fs : List Entry} (hfirst : record as s = some (es, t))
    (hsecond : record bs t = some (fs, u)) : record (as ++ bs) s = some (es ++ fs, u) := by
  induction as generalizing s es with
  | nil =>
    injection hfirst with h
    injection h with hes ht
    subst hes ht
    exact hsecond
  | cons a as ih =>
    obtain ⟨v, es', hstep, hrest, rfl⟩ := record_cons_inv hfirst
    exact record_cons hstep (ih hrest)

/-- What each of the turns of a run keeps, the run keeps. -/
theorem record_invariant {P : State → Prop} {as : List Turn} {s t : State} {es : List Entry}
    (hkeeps : ∀ a ∈ as, ∀ u v, P u → step (u.offer a) = .next v → P v) (hs : P s) (h : record as s = some (es, t)) :
    P t := by
  induction as generalizing s es with
  | nil =>
    injection h with h
    injection h with _ ht
    exact ht ▸ hs
  | cons a as ih =>
    obtain ⟨v, es', hstep, hrest, -⟩ := record_cons_inv h
    exact ih (fun b hb => hkeeps b (.tail a hb)) (hkeeps a (.head as) s v hs hstep) hrest

end Sys2Proof.Machine
end

section
/-!
The ring between the ticks (R144): the steady state every step keeps, how a dark ring reaches it, and how many lines it
lights.
-/

namespace Sys2Proof.Machine

/-! ## Steps keep the steady ring -/

/-- The steady state reads the latches, the two positions and the phase alone. -/
theorem SteadyRing.congr {s t : State} (hs : SteadyRing s) (hled : t.led = s.led) (hpos : t.pos = s.pos)
    (hnxt : t.nxt = s.nxt) (hphase : t.phase = s.phase) : SteadyRing t := by
  constructor
  · rw [hled, hpos, hnxt, hphase]; exact hs.lit
  · rw [hpos, hnxt, hphase]; exact hs.moving
  · rw [hphase]; exact hs.phaseRange

/-- Outside phase 4 the lit lines of a steady ring are `pos` alone. -/
theorem SteadyRing.lit_iff_pos {s : State} (hs : SteadyRing s) (hphase : s.phase ≠ 4) (k : Line) :
    getLine s.led k = true ↔ k = s.pos := by
  rw [hs.lit k]
  exact or_iff_left fun h => hphase h.1

/-- A ring whose lit line is `pos` alone is steady in every phase of the sequencer in which the next line is not yet
chosen or already reached. -/
theorem SteadyRing.of_pos {s : State} (hlit : ∀ k, getLine s.led k = true ↔ k = s.pos)
    (hphase : s.phase ∈ [0#3, 1#3, 2#3, 5#3]) : SteadyRing s := by
  simp only [List.mem_cons, List.not_mem_nil, or_false] at hphase
  refine ⟨fun k => ?_, ?_, ?_⟩ <;> obtain h | h | h | h := hphase <;> simp [h, hlit]

/-- Phase 2 chooses a line other than `pos` (R146), and lights none. -/
theorem steadyRing_compute {s : State} (hs : SteadyRing s) (hphase : s.phase = 2) :
    SteadyRing { s with nxt := nextPos s.pos s.dir, phase := 3, report := .idle } :=
  ⟨fun k => by simp [hs.lit_iff_pos (by simp [hphase])], fun _ => nextPos_ne _ _, (by decide : (3#3).toNat ≤ 5)⟩

/-- Phase 3 lights `nxt` beside the lit `pos`. -/
theorem steadyRing_assert {s : State} (hlit : ∀ k, getLine s.led k = true ↔ k = s.pos) (hmoving : s.nxt ≠ s.pos) :
    SteadyRing { s with led := putLine s.led s.nxt true, phase := 4, report := .done } :=
  ⟨fun k => by simp [hlit, or_comm], fun _ => hmoving, (by decide : (4#3).toNat ≤ 5)⟩

/-- Phase 4 darkens `pos`; `nxt`, another line, stays lit and becomes `pos`. -/
theorem steadyRing_deassert {s : State} (hlit : ∀ k, k ≠ s.pos → (getLine s.led k = true ↔ k = s.nxt))
    (hmoving : s.nxt ≠ s.pos) :
    SteadyRing { s with led := putLine s.led s.pos false, pos := s.nxt, phase := 5, report := .done } := by
  refine .of_pos (fun k => ?_) (by simp)
  by_cases hk : k = s.pos
  · simp [hk, hmoving.symm]
  · simp [hk, hlit]

/-- Settles O45, by the turn's effect: no operation but an LED write, and no other agent, writes what the steady state
reads; the sequencer keeps it phase by phase. -/
theorem stepsKeepSteadyRing : Obligations.StepsKeepSteadyRing := by
  intro s t a hleaves hs h
  have ha : a ≠ .reset := by
    rintro rfl
    exact absurd hleaves Bool.false_ne_true
  cases turnEffect_of_step ha h with
  | word w i t hr hdec heff =>
    obtain ⟨-, hopc, -, -⟩ := decode_ok hdec
    rw [leavesRing, hopc] at hleaves
    cases heff with
    | ledAssert p hcfg => exact absurd hleaves Bool.false_ne_true
    | ledDeassert p hcfg => exact absurd hleaves Bool.false_ne_true
    | _ => exact hs.congr rfl rfl rfl rfl
  | queryPoll level n hr hphase => exact .of_pos (hs.lit_iff_pos (by simp [hphase])) (by simp)
  | queryTake pressed hr hphase => exact .of_pos (hs.lit_iff_pos (by simp [hphase])) (by simp)
  | flip hr hphase => exact .of_pos (hs.lit_iff_pos (by simp [hphase])) (by simp)
  | compute hr hphase => exact steadyRing_compute hs hphase
  | assert hr hphase => exact steadyRing_assert (hs.lit_iff_pos (by simp [hphase])) (hs.moving (.inl hphase))
  | deassert hr hphase =>
    exact steadyRing_deassert (fun k hk => by simp [hs.lit k, hphase, hk]) (hs.moving (.inr hphase))
  | sleep hr hphase => exact .of_pos (hs.lit_iff_pos (by simp [hphase])) (by simp)
  | _ => exact hs.congr rfl rfl rfl rfl

/-! ## How many lines a steady ring lights -/

/-- A ring with one lit line. -/
theorem litCount_one : ∀ k : Line, litCount (putLine 0 k true) = 1 := by
  decide

/-- A ring with two lit lines. -/
theorem litCount_two : ∀ j k : Line, j ≠ k → litCount (putLine (putLine 0 k true) j true) = 2 := by
  decide

/-- Settles O47: the latches of a steady ring are determined, `pos` and at phase 4 also `nxt`. -/
theorem steadyRingLightsOneOrTwo : Obligations.SteadyRingLightsOneOrTwo := by
  intro s hs
  by_cases hphase : s.phase = 4
  · have hled : s.led = putLine (putLine 0 s.pos true) s.nxt true :=
      ring_ext fun k => Bool.eq_iff_iff.mpr (by simp [hs.lit k, hphase, or_comm])
    rw [if_pos hphase, hled, litCount_two _ _ (hs.moving (.inr hphase))]
  · have hled : s.led = putLine 0 s.pos true :=
      ring_ext fun k => Bool.eq_iff_iff.mpr (by simp [hs.lit_iff_pos hphase])
    rw [if_neg hphase, hled, litCount_one]

/-! ## From a dark ring to the steady state -/

/-- Settles O46: phase 3 lights `nxt` alone (O37), and phase 4 darkens `pos`, which is dark already, and makes `nxt` the
position (O38). -/
theorem firstTickReachesSteadyRing : Obligations.FirstTickReachesSteadyRing := by
  intro s hr hdark hphase hmoving hcfgNxt hcfgPos
  obtain ⟨led, hassert, hlit⟩ := (phaseThreeAssertsTheNewLine s hr hphase).1 hcfgNxt
  obtain ⟨led', hdeassert, hlit'⟩ :=
    (phaseFourDeassertsTheOldLine { s with led := led, phase := 4, report := .done } hr rfl).1 hcfgPos
  refine ⟨_, _, record_cons hassert (record_cons hdeassert rfl), .of_pos (fun k => ?_) (by simp)⟩
  simp only [hlit', hlit, hdark]
  by_cases hk : k = s.nxt <;> simp [hk, hmoving]

end Sys2Proof.Machine
end

section
/-!
Progress (R56, R73, R161): with every line an output and a phase the sequencer can be in, every turn has a next state.
-/

namespace Sys2Proof.Machine

/-- The phases of the sequencer (R29). -/
theorem phase_cases : ∀ p : BitVec 3, p.toNat ≤ 5 → p = 0 ∨ p = 1 ∨ p = 2 ∨ p = 3 ∨ p = 4 ∨ p = 5 := by
  decide

/-- The query of either design has a next state, with or without a cell (R137, R150). -/
theorem step_query_next {s : State} (hr : s.halted = false) (hphase : s.phase = 0) :
    ∃ t, step (s.offer .seqStep) = .next t := by
  obtain ⟨hpoll, hedge⟩ := phaseZeroQueriesTheButton s hr hphase
  cases hdesign : s.design with
  | poll =>
    obtain ⟨level, n, -, hstep⟩ := hpoll hdesign
    exact ⟨_, hstep⟩
  | edge =>
    obtain ⟨hsome, hnone⟩ := hedge hdesign
    cases hcell : s.cell with
    | some pressed => exact ⟨_, hsome pressed hcell⟩
    | none => exact ⟨_, hnone hcell⟩

section
variable {s : State} (hr : s.halted = false) (hcfg : ∀ k, getLine s.outCfg k = true)
include hr hcfg

/-- With every line an output no operation is refused. -/
theorem exec_next_of_configured (i : Instr) : ∃ t, exec i s = .next t := by
  obtain h | ⟨p, -, hoff, -⟩ := exec_next_or_refused i hr
  · exact h
  · exact absurd (hcfg (lineAt p)) (by simp [hoff])

/-- A word is one of the operations, or illegal (R65, R66). -/
theorem step_cmd_next (w : Word) : ∃ t, step (s.offer (.cmd w)) = .next t := by
  cases hdec : decode w with
  | ok i =>
    rw [step_offer_cmd, issue_of_decode hdec]
    exact exec_next_of_configured (s := s.reporting .idle) hr hcfg i
  | error e => exact ⟨_, illegalWordHaltsWithCauseFour s w hr (decode_ne_ok_of_error hdec)⟩

/-- Each phase of the sequencer has a next state. -/
theorem step_seqStep_next (hphase : s.phase.toNat ≤ 5) : ∃ t, step (s.offer .seqStep) = .next t := by
  obtain h | h | h | h | h | h := phase_cases s.phase hphase
  · exact step_query_next hr h
  · exact ⟨_, step_of_phase_one hr h⟩
  · exact ⟨_, step_of_phase_two hr h⟩
  · obtain ⟨led, hstep, -⟩ := (phaseThreeAssertsTheNewLine s hr h).1 (hcfg s.nxt)
    exact ⟨_, hstep⟩
  · obtain ⟨led, hstep, -⟩ := (phaseFourDeassertsTheOldLine s hr h).1 (hcfg s.pos)
    exact ⟨_, hstep⟩
  · exact ⟨_, phaseFiveSleepsAndWraps s hr h⟩

end

/-- Every turn of every agent has a next state. -/
theorem step_offer_next {s : State} (a : Turn) (hcfg : ∀ k, getLine s.outCfg k = true) (hphase : s.phase.toNat ≤ 5) :
    ∃ t, step (s.offer a) = .next t := by
  cases hr : s.halted with
  | true =>
    by_cases ha : a = .reset
    · exact ⟨_, ha ▸ step_offer_reset s⟩
    · exact ⟨_, haltedBlockMovesOnlyTheLine s a hr ha⟩
  | false =>
    cases a with
    | cmd w => exact step_cmd_next hr hcfg w
    | seqStep => exact step_seqStep_next hr hcfg hphase
    | lineSet v => exact ⟨_, step_offer_lineSet s v⟩
    | callback => exact ⟨_, step_offer_callback s⟩
    | spurious => exact ⟨_, step_offer_spurious s⟩
    | reset => exact ⟨_, step_offer_reset s⟩

/-- Settles O54: a step is idle or a turn (`step_cases`). -/
theorem configuredMachineNeverStops : Obligations.ConfiguredMachineNeverStops := by
  intro s hcfg hphase
  obtain hidle | ⟨a, u, rfl, hturn⟩ := step_cases s
  · exact ⟨_, hidle⟩
  · obtain ⟨t, ht⟩ := step_offer_next (s := { s with inputs := s.inputs.tail }) a hcfg hphase
    exact ⟨t, hturn.trans ht⟩

end Sys2Proof.Machine
end

section
/-!
Whole ticks of the control loop (R136): what six sequencer steps in a row leave, for both designs, and that the polling
loop never halts (R150).
-/

namespace Sys2Proof.Machine

/-! ## One tick -/

/-- The step of phase 0 with DESIGN = poll on a configured line: its level becomes `handled` (R82, R137). -/
theorem step_query_poll {s : State} (hr : s.halted = false) (hphase : s.phase = 0) (hdesign : s.design = .poll)
    (hin : s.inCfg = true) :
    step (s.offer .seqStep) =
      .next { s with handled := s.line, fresh := s.line && !s.handled, phase := 1,
                     report := .doneWith (s.line && !s.handled) } := by
  obtain ⟨level, n, hread, hstep⟩ := (phaseZeroQueriesTheButton s hr hphase).1 hdesign
  obtain ⟨rfl, rfl⟩ := hread hin
  exact hstep

/-- The step of phase 0 with DESIGN = edge and a cell: the latch is read and cleared (R98, R137). -/
theorem step_query_edge {s : State} {pressed : Bool} (hr : s.halted = false) (hphase : s.phase = 0)
    (hdesign : s.design = .edge) (hcell : s.cell = some pressed) :
    step (s.offer .seqStep) =
      .next { s with cell := some false, fresh := pressed, phase := 1, report := .doneWith pressed } :=
  ((phaseZeroQueriesTheButton s hr hphase).2 hdesign).1 pressed hcell

/-- The step of phase 3 with line `nxt` an output (R140). -/
theorem step_of_phase_three {s : State} (hr : s.halted = false) (hphase : s.phase = 3)
    (hcfg : getLine s.outCfg s.nxt = true) :
    step (s.offer .seqStep) = .next { s with led := putLine s.led s.nxt true, phase := 4, report := .done } := by
  rw [step_offer_seqStep, seqStep_of_phase_three (s := s.reporting .idle) hr hphase,
    phaseAssert_running (s := s.reporting .idle) hr]
  exact thenUnlessHalted_writeLed_configured true _ hr hcfg

/-- The step of phase 4 with line `pos` an output (R141). -/
theorem step_of_phase_four {s : State} (hr : s.halted = false) (hphase : s.phase = 4)
    (hcfg : getLine s.outCfg s.pos = true) :
    step (s.offer .seqStep) =
      .next { s with led := putLine s.led s.pos false, pos := s.nxt, phase := 5, report := .done } := by
  rw [step_offer_seqStep, seqStep_of_phase_four (s := s.reporting .idle) hr hphase,
    phaseDeassert_running (s := s.reporting .idle) hr]
  exact thenUnlessHalted_writeLed_configured false _ hr hcfg

/-- The Direction of a tick whose query answered `press` (R138). -/
def tickDir (press : Bool) (s : State) : Direction := if press then s.dir.neg else s.dir

/-- What phases 1 to 5 leave after a query that answered `press`: one hop in the tick's Direction (R138 to R142). -/
def afterTick (press : Bool) (s : State) : State :=
  { s with
    fresh := press
    dir := tickDir press s
    nxt := nextPos s.pos (tickDir press s)
    pos := nextPos s.pos (tickDir press s)
    led := putLine (putLine s.led (nextPos s.pos (tickDir press s)) true) s.pos false
    phase := 0
    report := .done }

/-- A tick whose query leaves `u`: phases 1 to 5 follow, and the query's is the only response. -/
theorem record_tick {s u : State} {press : Bool} (hr : u.halted = false) (hcfg : ∀ k, getLine u.outCfg k = true)
    (hquery : step (s.offer .seqStep) = .next { u with fresh := press, phase := 1, report := .doneWith press }) :
    ∃ es, record tickTurns s = some (es, afterTick press u) ∧
      es.filterMap (fun e => e.after.report.response) = [press] :=
  ⟨_, record_cons hquery <| record_cons (step_of_phase_one hr rfl) <| record_cons (step_of_phase_two hr rfl) <|
    record_cons (step_of_phase_three hr rfl (hcfg _)) <| record_cons (step_of_phase_four hr rfl (hcfg _)) <|
    record_cons (phaseFiveSleepsAndWraps _ hr rfl) rfl, rfl⟩

/-- The Direction of a tick is negated by a press. -/
theorem tickDir_toInt (press : Bool) (s : State) :
    (tickDir press s).toInt = if press then -s.dir.toInt else s.dir.toInt := by
  rw [tickDir, apply_ite Direction.toInt, Direction.neg_toInt]

/-- After a tick the new line is lit and the old one dark, the others as before: a hop moves, so they are two lines. -/
theorem getLine_afterTick_led (press : Bool) (s : State) (k : Line) :
    getLine (afterTick press s).led k =
      (decide (k = (afterTick press s).pos) || (decide (k ≠ s.pos) && getLine s.led k)) := by
  simp only [afterTick, getLine_putLine_false, getLine_putLine_true]
  by_cases hk : k = nextPos s.pos (tickDir press s) <;> simp [hk, nextPos_ne]

/-- A tick of the polling loop on a configured line: its press is a high sample not yet reported. -/
theorem record_tick_poll {s : State} {level press : Bool} (hr : s.halted = false) (hphase : s.phase = 0)
    (hcfg : ∀ k, getLine s.outCfg k = true) (hdesign : s.design = .poll) (hin : s.inCfg = true)
    (hlevel : level = s.line) (hpress : press = (s.line && !s.handled)) :
    ∃ es, record tickTurns s = some (es, afterTick press { s with handled := level }) ∧
      es.filterMap (fun e => e.after.report.response) = [press] := by
  subst hlevel hpress
  exact record_tick (u := { s with handled := s.line }) hr hcfg (step_query_poll hr hphase hdesign hin)

/-- A tick of the edge loop: its press is the latch. -/
theorem record_tick_edge {s : State} {press : Bool} (hr : s.halted = false) (hphase : s.phase = 0)
    (hcfg : ∀ k, getLine s.outCfg k = true) (hdesign : s.design = .edge) (hcell : s.cell = some press) :
    ∃ es, record tickTurns s = some (es, afterTick press { s with cell := some false }) ∧
      es.filterMap (fun e => e.after.report.response) = [press] :=
  record_tick (s := s) (u := { s with cell := some false }) hr hcfg (step_query_edge hr hphase hdesign hcell)

/-- Settles O40, by DESIGN: the tick of each loop, read off `afterTick`. -/
theorem oneTickHopsOneLine : Obligations.OneTickHopsOneLine := by
  intro s press hr hphase hcfg hpoll hedge
  cases hdesign : s.design with
  | poll =>
    obtain ⟨hin, hpress⟩ := hpoll hdesign
    obtain ⟨es, hrec, -⟩ := record_tick_poll hr hphase hcfg hdesign hin rfl hpress
    exact ⟨es, _, hrec, rfl, hr, rfl, tickDir_toInt press s, lineAt_toNat_fmod _, getLine_afterTick_led press _, rfl,
      rfl, rfl, rfl, hdesign, fun _ => ⟨rfl, rfl⟩, nofun⟩
  | edge =>
    obtain ⟨es, hrec, -⟩ := record_tick_edge hr hphase hcfg hdesign (hedge hdesign)
    exact ⟨es, _, hrec, rfl, hr, rfl, tickDir_toInt press s, lineAt_toNat_fmod _, getLine_afterTick_led press _, rfl,
      rfl, rfl, rfl, hdesign, nofun, fun _ => ⟨rfl, rfl⟩⟩

/-! ## A button held through three ticks (R85) -/

/-- Three hops one way are three steps of the ring (R145). -/
theorem nextPos_three_toNat (pos : Line) (dir : Direction) :
    ((nextPos (nextPos (nextPos pos dir) dir) dir).toNat : Int) = ((pos.toNat : Int) + 3 * dir.toInt).fmod 8 := by
  rw [Int.fmod_eq_emod_of_nonneg _ (by decide), nextPos_toNat, nextPos_toNat, nextPos_toNat]
  omega

/-- Settles O41: the first tick answers 1 and flips, the other two answer 0, and all three hop the new way. -/
theorem heldPressFlipsOnceInThreeTicks : Obligations.HeldPressFlipsOnceInThreeTicks := by
  intro s hr hphase hcfg hdesign hin hline hhandled
  obtain ⟨es₁, hrec₁, hresp₁⟩ :=
    record_tick_poll (level := true) (press := true) hr hphase hcfg hdesign hin hline.symm (by simp [hline, hhandled])
  obtain ⟨es₂, hrec₂, hresp₂⟩ :=
    record_tick_poll (s := afterTick true { s with handled := true }) (level := true) (press := false) hr rfl hcfg
      hdesign hin hline.symm (by simp [afterTick])
  obtain ⟨es₃, hrec₃, hresp₃⟩ :=
    record_tick_poll (s := afterTick false { afterTick true { s with handled := true } with handled := true })
      (level := true) (press := false) hr rfl hcfg hdesign hin hline.symm (by simp [afterTick])
  refine ⟨es₁ ++ es₂ ++ es₃, _, record_append (record_append hrec₁ hrec₂) hrec₃, ?_, rfl, rfl, ?_⟩
  · rw [List.filterMap_append, List.filterMap_append, hresp₁, hresp₂, hresp₃]
    rfl
  · have hpos := nextPos_three_toNat s.pos s.dir.neg
    rw [Direction.neg_toInt, Int.mul_neg, ← Int.sub_eq_add_neg] at hpos
    exact hpos

/-! ## The polling loop never halts (R150) -/

/-- What the polling loop keeps: the design is fixed, and only the edge design's query can halt. -/
theorem polling_running_of_seqStep {s t : State} (hs : s.design = .poll ∧ s.halted = false)
    (h : step (s.offer .seqStep) = .next t) : t.design = .poll ∧ t.halted = false := by
  obtain ⟨hdesign, hr⟩ := hs
  cases turnEffect_of_seqStep hr h with
  | halted _ hh => exact absurd hh (Bool.eq_false_iff.mp hr)
  | queryHalt _ _ hedge => exact absurd (hdesign.symm.trans hedge) (by decide)
  | _ => exact ⟨hdesign, hr⟩

/-- Settles O42: every turn of the run is the sequencer's, so the run keeps what each of its steps keeps. -/
theorem pollingLoopNeverHalts : Obligations.PollingLoopNeverHalts := by
  intro n s t es hdesign hr h
  refine (record_invariant (P := fun u => u.design = .poll ∧ u.halted = false) ?_ ⟨hdesign, hr⟩ h).2
  intro a ha u v hu hstep
  obtain rfl := List.eq_of_mem_replicate ha
  exact polling_running_of_seqStep hu hstep

end Sys2Proof.Machine
end

section
/-!
Contracts over runs (R83, R99, R170): each is an invariant of the run, whose step is read off the effects of a turn.
-/

namespace Sys2Proof.Machine

/-! ## POLL reports each run of high samples once (R83) -/

/-- The sample of one recorded turn, as `pollSamples` collects it: the level and the response of a POLL. -/
def Entry.pollSample (e : Entry) : Option (Bool × Bool) :=
  if e.isPoll then e.after.report.response.map fun b => (e.before.line, b) else none

/-- The samples of a run are those of its turns. -/
theorem pollSamples_eq (es : List Entry) : pollSamples es = es.filterMap Entry.pollSample := rfl

/-- A POLL that responds is a sample. -/
theorem pollSample_of_response {e : Entry} {b : Bool} (hpoll : e.isPoll = true)
    (hresponse : e.after.report.response = some b) : e.pollSample = some (e.before.line, b) := by
  simp [Entry.pollSample, hpoll, hresponse]

/-- A turn without a response is no sample. -/
theorem pollSample_of_no_response {e : Entry} (hresponse : e.after.report.response = none) : e.pollSample = none := by
  simp [Entry.pollSample, hresponse]

/-- A turn that is no POLL is no sample. -/
theorem pollSample_of_not_poll {e : Entry} (hpoll : e.isPoll = false) : e.pollSample = none := by
  simp [Entry.pollSample, hpoll]

/-- One turn of a configured line short of reset: either it is a POLL that took effect, which answers the first sample of a
press and keeps the sample in `handled`, or it is no sample and leaves `handled` as it was (R80, R82, R137). -/
theorem TurnEffect.pollSample {s t : State} {a : Turn} (h : TurnEffect s a t) (hin : s.inCfg = true) :
    (Entry.pollSample ⟨a, s, t⟩ = some (s.line, s.line && !s.handled) ∧ t.handled = s.line) ∨
      (Entry.pollSample ⟨a, s, t⟩ = none ∧ t.handled = s.handled) := by
  cases h with
  | halted a hh => exact .inr ⟨pollSample_of_no_response (by cases a <;> rfl), rfl⟩
  | word w i t hr hdec heff =>
    obtain rfl := encode_of_decode hdec
    cases heff with
    | poll level n hread =>
      obtain ⟨rfl, rfl⟩ := hread hin
      exact .inl ⟨pollSample_of_response rfl rfl, rfl⟩
    | take pressed hcell => exact .inr ⟨pollSample_of_not_poll rfl, rfl⟩
    | _ => exact .inr ⟨pollSample_of_no_response rfl, rfl⟩
  | queryPoll level n hr hphase hdesign hread =>
    obtain ⟨rfl, rfl⟩ := hread hin
    exact .inl ⟨pollSample_of_response (by simp [Entry.isPoll, hphase, hdesign]) rfl, rfl⟩
  | queryTake pressed hr hphase hdesign hcell =>
    exact .inr ⟨pollSample_of_not_poll (by simp [Entry.isPoll, hdesign]), rfl⟩
  | _ => exact .inr ⟨pollSample_of_no_response rfl, rfl⟩

/-- Settles O55, by induction on the turns: `handled` is the level before the samples still to come, and the line stays
configured (O48). -/
theorem pollReportsEachRunOfHighSamplesOnce : Obligations.PollReportsEachRunOfHighSamplesOnce := by
  intro as
  induction as with
  | nil =>
    intro s t es _ _ h
    injection h with h
    injection h with hes _
    subst hes
    rfl
  | cons a as ih =>
    intro s t es hin hshort h
    obtain ⟨u, es', hstep, hrest, rfl⟩ := record_cons_inv h
    have ha : a ≠ .reset := hshort a (.head as)
    have hin' : u.inCfg = true := (configurationBitsOnlyRise s u a ha hstep).1.elim (·.trans hin) (·.2)
    have htail := ih u t es' hin' (fun b hb => hshort b (.tail a hb)) hrest
    rw [pollSamples_eq] at htail ⊢
    obtain ⟨hsample, hhandled⟩ | ⟨hsample, hhandled⟩ := (turnEffect_of_step ha hstep).pollSample hin
    · rw [List.filterMap_cons_some hsample, List.map_cons, List.map_cons, firstsOfRuns, htail, hhandled]
    · rw [List.filterMap_cons_none hsample, htail, hhandled]

/-! ## TAKE reports whether a callback ran (R99) -/

/-- Delivery is not enabled in a halted block (R165). -/
theorem deliverable_of_halted {s : State} (hh : s.halted = true) : s.deliverable = false := by
  simp [State.deliverable, hh]

/-- One turn short of reset that is no TAKE keeps the latch, and sets it if the callback ran (R98, R166). -/
theorem TurnEffect.cell {s t : State} {a : Turn} {b : Bool} (h : TurnEffect s a t) (hcell : s.cell = some b)
    (hnoTake : Entry.isTake ⟨a, s, t⟩ = false) : t.cell = some (b || Entry.ranCallback ⟨a, s, t⟩) := by
  have hkept (hkeeps : t.cell = s.cell) (hran : Entry.ranCallback ⟨a, s, t⟩ = false) :
      t.cell = some (b || Entry.ranCallback ⟨a, s, t⟩) := by
    rw [hkeeps, hcell, hran, Bool.or_false]
  cases h with
  | halted a hh => exact hkept rfl (by simp [Entry.ranCallback, deliverable_of_halted hh])
  | word w i t hr hdec heff =>
    obtain rfl := encode_of_decode hdec
    cases heff with
    | cellInit hnone => exact absurd (hnone.symm.trans hcell) nofun
    | take pressed hsome => exact absurd (show true = false from hnoTake) (by decide)
    | _ => exact hkept rfl rfl
  | queryTake pressed hr hphase hdesign hsome => exact absurd hnoTake (by simp [Entry.isTake, hphase, hdesign])
  | callbackIdle hd => exact hkept rfl (by simp [Entry.ranCallback, hd])
  | callbackRun pressed hd hsome => simp [Entry.ranCallback, hd]
  | callbackHalt hd hnone => exact absurd (hnone.symm.trans hcell) nofun
  | _ => exact hkept rfl rfl

/-- A run without a TAKE and short of reset leaves the latch set if it was set or a callback ran. -/
theorem record_cell {as : List Turn} {s t : State} {es : List Entry} {b : Bool} (hcell : s.cell = some b)
    (hshort : ∀ a ∈ as, a ≠ .reset) (h : record as s = some (es, t)) (hnoTake : ∀ e ∈ es, e.isTake = false) :
    t.cell = some (b || es.any Entry.ranCallback) := by
  induction as generalizing s es b with
  | nil =>
    injection h with h
    injection h with hes ht
    subst hes ht
    rw [hcell, List.any_nil, Bool.or_false]
  | cons a as ih =>
    obtain ⟨u, es', hstep, hrest, rfl⟩ := record_cons_inv h
    have hcell' := (turnEffect_of_step (hshort a (.head as)) hstep).cell hcell (hnoTake _ (.head es'))
    rw [List.any_cons, ← Bool.or_assoc]
    exact ih hcell' (fun c hc => hshort c (.tail a hc)) hrest (fun e he => hnoTake e (.tail _ he))

/-- Settles O56: the run leaves the latch saying whether a callback ran (`record_cell`), and that is what a TAKE answers,
issued (R98) or made by phase 0 (R137). -/
theorem takeReportsWhetherACallbackRan : Obligations.TakeReportsWhetherACallbackRan := by
  intro as s t es hcell hshort h hnoTake hr
  have hlatch := record_cell hcell hshort h hnoTake
  rw [Bool.false_or] at hlatch
  exact ⟨execTake_of_cell_some hr hlatch, fun hphase hdesign => step_query_edge hr hphase hdesign hlatch⟩

/-! ## Fair runs deliver pending edges (R170) -/

/-- Delivery, once enabled, stays enabled until the callback runs, the block halts or is reset (R165, R167). -/
theorem deliverable_of_step {s t : State} {a : Turn} (h : step (s.offer a) = .next t) (hreset : a ≠ .reset)
    (hcallback : a ≠ .callback) (hd : s.deliverable = true) (hr : t.halted = false) : t.deliverable = true := by
  obtain ⟨hpending, hunmask, -⟩ := (deliverable_iff s).mp hd
  have hunmask' : t.unmask = true := by
    obtain ⟨-, -, -, hunmask', -⟩ := configurationBitsOnlyRise s t a hreset h
    exact hunmask'.elim (·.trans hunmask) (·.2)
  have hpending' : t.pending = true := by
    cases turnEffect_of_step hreset h with
    | word w i t hr hdec heff => exact heff.pending.trans hpending
    | lineSet v hr => simp [hpending]
    | spurious hr => simp [hpending]
    | callbackRun pressed hd hcell => exact absurd rfl hcallback
    | _ => exact hpending
  exact (deliverable_iff t).mpr ⟨hpending', hunmask', hr⟩

/-- Settles O57. If no reset, halt or callback came from boundary `n` on, delivery would stay enabled for ever
(`deliverable_of_step`), and fairness would give the interrupt agent its turn after all. -/
theorem fairRunsDeliverPendingEdges : Obligations.FairRunsDeliverPendingEdges := by
  intro turns states n hrun hfair hpending hunmask
  by_contra hnever
  have hquiet (m : Nat) (hm : n ≤ m) : turns m ≠ .reset ∧ (states m).halted = false :=
    ⟨fun h => hnever ⟨m, hm, .inl h⟩, Bool.eq_false_iff.mpr fun h => hnever ⟨m, hm, .inr (.inl h)⟩⟩
  have hnoCallback (m : Nat) (hm : n ≤ m) (hd : (states m).deliverable = true) : turns m ≠ .callback := by
    intro hturn
    refine hnever ⟨m, hm, .inr (.inr ⟨hturn, hd, fun hcell => ?_⟩)⟩
    obtain ⟨hp, hu, hr⟩ := (deliverable_iff _).mp hd
    obtain ⟨pressed, hsome⟩ := Option.ne_none_iff_exists'.mp hcell
    have hstep := hrun m
    rw [hturn, (callbackRunsWhenDeliverable _ hp hu hr).1 pressed hsome] at hstep
    injection hstep with hnext
    exact hnext ▸ ⟨rfl, rfl⟩
  have henabled (m : Nat) (hm : n ≤ m) : (states m).deliverable = true := by
    induction m, hm using Nat.le_induction with
    | base => exact (deliverable_iff _).mpr ⟨hpending, hunmask, (hquiet n le_rfl).2⟩
    | succ m hm ih =>
      obtain ⟨hreset, -⟩ := hquiet m hm
      obtain ⟨-, hr⟩ := hquiet (m + 1) (Nat.le_succ_of_le hm)
      exact deliverable_of_step (hrun m) hreset (hnoCallback m hm ih) ih hr
  obtain ⟨m, hm, hturn⟩ := hfair n henabled
  exact hnoCallback m hm (henabled m hm) hturn

end Sys2Proof.Machine
end

section
/-!
The boot sequences and their hazard (R189, R190, R193): runs of issued words, step by step.
-/

namespace Sys2Proof.Machine

/-! ## The words of a running block, one step each -/

/-- A legal word's step is its operation, taken with the ports idle (R50, R65). -/
theorem step_offer_word {w : Word} (i : Instr) (s : State) (hdec : decode w = .ok i) :
    step (s.offer (.cmd w)) = exec i (s.reporting .idle) := by
  rw [step_offer_cmd, issue_of_decode hdec]

section
variable {s : State} {pressed : Bool} (hr : s.halted = false)
include hr

/-- The word of BTN_SEL_IRQ (R94). -/
theorem step_btnSelIrq : step (s.offer (.cmd 0x3000)) = .next { s with srcSel := true, report := .done } :=
  (step_offer_word .btnSelIrq s rfl).trans (execBtnSelIrq_running (s := s.reporting .idle) hr)

/-- The word of BTN_EDGE_EN (R95). -/
theorem step_btnEdgeEn : step (s.offer (.cmd 0x4000)) = .next { s with edgeEn := true, report := .done } :=
  (step_offer_word .btnEdgeEn s rfl).trans (execBtnEdgeEn_running (s := s.reporting .idle) hr)

/-- The word of CELL_INIT, with no cell (R96). -/
theorem step_cellInit (hcell : s.cell = none) :
    step (s.offer (.cmd 0x5000)) = .next { s with cell := some false, report := .done } :=
  (step_offer_word .cellInit s rfl).trans (execCellInit_of_cell_none (s := s.reporting .idle) hr hcell)

/-- The word of IRQ_UNMASK (R97). -/
theorem step_irqUnmask : step (s.offer (.cmd 0x6000)) = .next { s with unmask := true, report := .done } :=
  (step_offer_word .irqUnmask s rfl).trans (execIrqUnmask_running (s := s.reporting .idle) hr)

/-- The word of TAKE, with a cell (R98). -/
theorem step_take (hcell : s.cell = some pressed) :
    step (s.offer (.cmd 0x8000)) = .next { s with cell := some false, report := .doneWith pressed } :=
  (step_offer_word .take s rfl).trans (execTake_of_cell_some (s := s.reporting .idle) hr hcell)

/-- A press on the line of an armed detector is latched (R90, R91). -/
theorem step_press (hsel : s.srcSel = true) (hen : s.edgeEn = true) (hline : s.line = false) :
    step (s.offer (.lineSet true)) = .next { s with line := true, report := .idle, pending := true } := by
  rw [lineSetMovesTheLineAndLatchesEdges s true, hsel, hen, hline, hr]
  simp

/-- The callback with a cell (R166). -/
theorem step_callback (hpending : s.pending = true) (hunmask : s.unmask = true)
    (hcell : s.cell = some pressed) :
    step (s.offer .callback) = .next { s with pending := false, cell := some true, report := .idle } :=
  (callbackRunsWhenDeliverable s hpending hunmask hr).1 pressed hcell

/-- The callback with no cell (R166). -/
theorem step_callback_of_cell_none (hpending : s.pending = true) (hunmask : s.unmask = true) (hcell : s.cell = none) :
    step (s.offer .callback) = .next { s with halted := true, cause := 1, report := .idle } :=
  (callbackRunsWhenDeliverable s hpending hunmask hr).2 hcell

end

/-- A word to a halted block (R74). -/
theorem step_word_halted {s : State} (w : Word) (hh : s.halted = true) :
    step (s.offer (.cmd w)) = .next { s with report := .ignored } :=
  haltedBlockMovesOnlyTheLine s (.cmd w) hh nofun

/-! ## Unmasking before CELL_INIT (R193) -/

section
variable {s : State} (hr : s.halted = false) (hcell : s.cell = none)
include hr hcell

/-- An edge pending and unmasked: the callback before CELL_INIT halts, and CELL_INIT is ignored. -/
theorem callback_before_cellInit (hpending : s.pending = true) (hunmask : s.unmask = true) :
    ∃ es t, record [.callback, .cmd 0x5000] s = some (es, t) ∧ t.halted = true ∧ t.cause = 1 ∧ t.cell = none ∧
      t.pending = true ∧ t.report = .ignored :=
  ⟨_, _, record_cons (step_callback_of_cell_none hr hpending hunmask hcell) <|
    record_cons (step_word_halted 0x5000 rfl) rfl, rfl, rfl, hcell, hpending, rfl⟩

/-- An edge pending and unmasked: CELL_INIT before the callback saves the press for TAKE. -/
theorem cellInit_before_callback (hpending : s.pending = true) (hunmask : s.unmask = true) :
    ∃ es t, record [.cmd 0x5000, .callback, .cmd 0x8000] s = some (es, t) ∧ t.halted = false ∧
      t.report = .doneWith true ∧ t.pending = false :=
  ⟨_, _, record_cons (step_cellInit hr hcell) <| record_cons (step_callback hr hpending hunmask rfl) <|
    record_cons (step_take hr rfl) rfl, hr, rfl, rfl⟩

/-- An armed detector: an edge and its callback between IRQ_UNMASK and CELL_INIT halt the block. -/
theorem unmask_press_callback_before_cellInit (hsel : s.srcSel = true) (hen : s.edgeEn = true)
    (hline : s.line = false) :
    ∃ es t, record [.cmd 0x6000, .lineSet true, .callback, .cmd 0x5000] s = some (es, t) ∧
      es.map (fun e => e.after.report) = [.done, .idle, .idle, .ignored] ∧ t.halted = true ∧ t.cause = 1 ∧
      t.cell = none ∧ t.pending = true :=
  ⟨_, _, record_cons (step_irqUnmask hr) <| record_cons (step_press hr hsel hen hline) <|
    record_cons (step_callback_of_cell_none hr rfl rfl hcell) <| record_cons (step_word_halted 0x5000 rfl) rfl,
    rfl, rfl, rfl, hcell, rfl⟩

/-- No edge before CELL_INIT: every word is done, and TAKE answers 0. -/
theorem unmask_cellInit_take :
    ∃ es t, record [.cmd 0x6000, .cmd 0x5000, .cmd 0x8000] s = some (es, t) ∧
      es.map (fun e => e.after.report) = [.done, .done, .doneWith false] ∧ t.halted = false ∧ t.cell = some false :=
  ⟨_, _, record_cons (step_irqUnmask hr) <| record_cons (step_cellInit hr hcell) <| record_cons (step_take hr rfl) rfl,
    rfl, hr, rfl⟩

/-- An armed detector: an edge before CELL_INIT whose callback runs after it is reported. -/
theorem unmask_press_cellInit_callback (hsel : s.srcSel = true) (hen : s.edgeEn = true) (hline : s.line = false) :
    ∃ es t, record [.cmd 0x6000, .lineSet true, .cmd 0x5000, .callback, .cmd 0x8000] s = some (es, t) ∧
      es.map (fun e => e.after.report) = [.done, .idle, .done, .idle, .doneWith true] ∧ t.halted = false ∧
      t.pending = false :=
  ⟨_, _, record_cons (step_irqUnmask hr) <| record_cons (step_press hr hsel hen hline) <|
    record_cons (step_cellInit hr hcell) <| record_cons (step_callback hr rfl rfl rfl) <|
    record_cons (step_take hr rfl) rfl, rfl, hr, rfl⟩

end

/-- Settles O58, run by run. -/
theorem unmaskBeforeInitAdmitsBothRuns : Obligations.UnmaskBeforeInitAdmitsBothRuns := by
  intro s hr hcell
  exact ⟨fun hpending hunmask => ⟨callback_before_cellInit hr hcell hpending hunmask,
      cellInit_before_callback hr hcell hpending hunmask⟩,
    fun hsel hen hline _ => ⟨unmask_press_callback_before_cellInit hr hcell hsel hen hline,
      unmask_cellInit_take hr hcell, unmask_press_cellInit_callback hr hcell hsel hen hline⟩⟩

/-! ## The boot sequences (R189, R190) -/

/-- An issued operation is recorded before those that follow. -/
theorem record_issuing_cons {s t u : State} {i : Instr} {is : List Instr} {es : List Entry} (hwf : i.wf = true)
    (hexec : exec i (s.reporting .idle) = .next t) (hrest : record (issuing is) t = some (es, u)) :
    ∃ fs, record (issuing (i :: is)) s = some (fs, u) :=
  ⟨_, record_cons ((step_offer_word i s (decodeEncodeRoundTrip i hwf)).trans hexec) hrest⟩

/-- The lines that are outputs once the positions `ps` are configured one by one (R112). -/
def configuring (ps : List Int) (cfg : Ring) : Ring := ps.foldl (fun c p => putLine c (lineAt p) true) cfg

/-- They are the lines of `ps` and those that were outputs before. -/
theorem getLine_configuring (ps : List Int) (cfg : Ring) (k : Line) :
    getLine (configuring ps cfg) k = (decide (k ∈ ps.map lineAt) || getLine cfg k) := by
  induction ps generalizing cfg with
  | nil => rfl
  | cons p ps ih =>
    rw [configuring, List.foldl_cons, ← configuring, ih, getLine_putLine_true, List.map_cons]
    simp only [List.mem_cons, Bool.decide_or, Bool.or_assoc, Bool.or_left_comm]

/-- Issuing LED_CFG_OUT for positions that fit configures them and changes nothing else; the ports show `done` before and
after. -/
theorem record_ledCfgOut {ps : List Int} {s : State} (hfits : ∀ p ∈ ps, positionFits p = true) (hr : s.halted = false)
    (hreport : s.report = .done) :
    ∃ es, record (issuing (ps.map .ledCfgOut)) s =
      some (es, { s with outCfg := configuring ps s.outCfg, report := .done }) := by
  induction ps generalizing s with
  | nil => exact ⟨[], by rw [← hreport]; rfl⟩
  | cons p ps ih =>
    obtain ⟨es, hrest⟩ := ih (s := { s with outCfg := putLine s.outCfg (lineAt p) true, report := .done })
      (fun q hq => hfits q (.tail p hq)) hr rfl
    exact record_issuing_cons (hfits p (.head ps)) (execLedCfgOut_running p (s := s.reporting .idle) hr) hrest

/-- The eight positions of LED_CFG_ALL (R72). -/
def ringPositions : List Int := [0, 1, 2, 3, 4, 5, 6, 7]

/-- LED_CFG_ALL makes every line an output, whatever was configured. -/
theorem configuring_ringPositions (cfg : Ring) : configuring ringPositions cfg = 0b1111_1111 := by
  have hall : ∀ k : Line, k ∈ ringPositions.map lineAt ∧ getLine 0b1111_1111 k = true := by decide
  refine ring_ext fun k => ?_
  obtain ⟨hk, hlit⟩ := hall k
  rw [getLine_configuring, hlit, decide_eq_true hk, Bool.true_or]

/-- INIT.P in a running block with the handle free. -/
theorem record_initP {s : State} (hr : s.halted = false) (hfree : s.periphTaken = false) :
    ∃ es, record (issuing initP) s =
      some (es, { s with periphTaken := true, inCfg := true, outCfg := 0b1111_1111, report := .done }) := by
  obtain ⟨es, hcfg⟩ := record_ledCfgOut (ps := ringPositions)
    (s := { s with periphTaken := true, inCfg := true, report := .done }) (by decide) hr rfl
  rw [configuring_ringPositions] at hcfg
  obtain ⟨fs, hin⟩ := record_issuing_cons (s := { s with periphTaken := true, report := .done }) (i := .btnCfgIn) rfl
    (execBtnCfgIn_running hr) hcfg
  exact record_issuing_cons (i := .periphTake) rfl (execPeriphTake_of_free hr hfree) hin

/-- Settles O59. -/
theorem initPBootsForPolling : Obligations.InitPBootsForPolling :=
  fun _ hr hfree => ⟨rfl, record_initP hr hfree⟩

/-- The four operations INIT.E adds, in a running block with no cell. -/
theorem record_armDetector {s : State} (hr : s.halted = false) (hcell : s.cell = none) :
    ∃ es, record [.cmd 0x3000, .cmd 0x4000, .cmd 0x5000, .cmd 0x6000] s =
      some (es, { s with srcSel := true, edgeEn := true, cell := some false, unmask := true, report := .done }) :=
  ⟨_, record_cons (step_btnSelIrq hr) <| record_cons (step_btnEdgeEn hr) <|
    record_cons (step_cellInit hr hcell) <| record_cons (step_irqUnmask hr) rfl⟩

/-- Settles O60: INIT.E is INIT.P and its four words. -/
theorem initEBootsForTheEdgeDesign : Obligations.InitEBootsForTheEdgeDesign := by
  intro s hr hfree hcell
  have hwords : issuing initE = issuing initP ++ [.cmd 0x3000, .cmd 0x4000, .cmd 0x5000, .cmd 0x6000] := rfl
  obtain ⟨es, hboot⟩ := record_initP hr hfree
  obtain ⟨fs, harm⟩ := record_armDetector
    (s := { s with periphTaken := true, inCfg := true, outCfg := 0b1111_1111, report := .done }) hr hcell
  exact ⟨hwords, es ++ fs, hwords ▸ record_append hboot harm⟩

end Sys2Proof.Machine
end
